-- ==== Sys2Proof/Word.lean ====
section
/-! DEFINITION. Words of the machine, and the twelve operand forms an instruction can carry. -/

namespace Sys2Proof

/-- The CPU's data width: every register but `PC`, and every memory cell (00_scope.md R5). -/
abbrev Byte := BitVec 8

/-- A 16-bit quantity: `PC`, CPU addresses, the VRAM address (00_scope.md R5, 10_state.md R41). -/
abbrev Word := BitVec 16

/-- The twelve mode tags of 30_encoding.md R100. -/
inductive ModeTag
  | imp | imm | zp0 | zpx | zpy | abs | abx | aby | ind | izx | izy | rel
  deriving DecidableEq, Repr

/-- An addressing mode together with the operand bytes it reads (30_encoding.md R100 to R112). A
one-byte operand is `b1`; a two-byte operand is the 16-bit quantity `b2:b1`. -/
inductive Mode
  /-- implied; the accumulator forms of the shifts are this mode (R101) -/
  | imp
  /-- immediate (R102) -/
  | imm (b1 : Byte)
  /-- zero page (R103) -/
  | zp0 (b1 : Byte)
  /-- zero page indexed by X (R104) -/
  | zpx (b1 : Byte)
  /-- zero page indexed by Y (R105) -/
  | zpy (b1 : Byte)
  /-- absolute (R106) -/
  | abs (b2b1 : Word)
  /-- absolute indexed by X (R107) -/
  | abx (b2b1 : Word)
  /-- absolute indexed by Y (R108) -/
  | aby (b2b1 : Word)
  /-- indirect (R109) -/
  | ind (b2b1 : Word)
  /-- indexed indirect (R110) -/
  | izx (b1 : Byte)
  /-- indirect indexed (R111) -/
  | izy (b1 : Byte)
  /-- relative (R112) -/
  | rel (b1 : Byte)
  deriving DecidableEq, Repr

/-- The mode's tag. -/
def Mode.tag : Mode → ModeTag
  | .imp => .imp
  | .imm _ => .imm
  | .zp0 _ => .zp0
  | .zpx _ => .zpx
  | .zpy _ => .zpy
  | .abs _ => .abs
  | .abx _ => .abx
  | .aby _ => .aby
  | .ind _ => .ind
  | .izx _ => .izx
  | .izy _ => .izy
  | .rel _ => .rel

end Sys2Proof
end

