-- ==== Sys2Proof/Syntax.lean ====
section
/-! DEFINITION. The instructions of spec/opcode_table.json: one constructor per mnemonic. A row of the
table is a mnemonic together with an addressing mode (30_encoding.md R100, R117); the mode, with its
operand bytes, is the constructor's argument, and WellFormed.lean says which modes the table gives each
mnemonic. An instruction whose only mode is IMP has no argument, a branch (REL) has its displacement
byte, and JSR (ABS) its address. -/

namespace Sys2Proof

/-- An instruction with its operand bytes. -/
inductive Instr
  -- Arithmetic and logic (40_arith_logic.md)
  /-- R140: add with carry -/
  | adc (m : Mode)
  /-- R141: subtract with borrow -/
  | sbc (m : Mode)
  /-- R142: and with the accumulator -/
  | and (m : Mode)
  /-- R143: or with the accumulator -/
  | ora (m : Mode)
  /-- R144: exclusive or with the accumulator -/
  | eor (m : Mode)
  /-- R145: bit test -/
  | bit (m : Mode)
  -- Shifts, compares, increments and decrements (41_shift_compare_incdec.md)
  /-- R150: arithmetic shift left -/
  | asl (m : Mode)
  /-- R151: logical shift right -/
  | lsr (m : Mode)
  /-- R152: rotate left through carry -/
  | rol (m : Mode)
  /-- R153: rotate right through carry -/
  | ror (m : Mode)
  /-- R155: compare with the accumulator -/
  | cmp (m : Mode)
  /-- R156: compare with X -/
  | cpx (m : Mode)
  /-- R157: compare with Y -/
  | cpy (m : Mode)
  /-- R160: increment memory -/
  | inc (m : Mode)
  /-- R161: decrement memory -/
  | dec (m : Mode)
  /-- R162: increment X -/
  | inx
  /-- R163: increment Y -/
  | iny
  /-- R164: decrement X -/
  | dex
  /-- R165: decrement Y -/
  | dey
  -- Loads, stores and transfers (42_load_store_transfer.md)
  /-- R170: load the accumulator -/
  | lda (m : Mode)
  /-- R171: load X -/
  | ldx (m : Mode)
  /-- R172: load Y -/
  | ldy (m : Mode)
  /-- R173: store the accumulator -/
  | sta (m : Mode)
  /-- R174: store X -/
  | stx (m : Mode)
  /-- R175: store Y -/
  | sty (m : Mode)
  /-- R180: transfer A to X -/
  | tax
  /-- R181: transfer A to Y -/
  | tay
  /-- R182: transfer X to A -/
  | txa
  /-- R183: transfer Y to A -/
  | tya
  /-- R184: transfer SP to X -/
  | tsx
  /-- R185: transfer X to SP -/
  | txs
  -- Stack (43_stack.md)
  /-- R192: push P -/
  | php
  /-- R193: pull P -/
  | plp
  /-- R194: push A -/
  | pha
  /-- R195: pull A -/
  | pla
  -- Jumps, branches, calls (44_control_flow.md)
  /-- R200: jump -/
  | jmp (m : Mode)
  /-- R202: branch if N = 0 -/
  | bpl (disp : Byte)
  /-- R203: branch if N = 1 -/
  | bmi (disp : Byte)
  /-- R204: branch if V = 0 -/
  | bvc (disp : Byte)
  /-- R205: branch if V = 1 -/
  | bvs (disp : Byte)
  /-- R206: branch if C = 0 -/
  | bcc (disp : Byte)
  /-- R207: branch if C = 1 -/
  | bcs (disp : Byte)
  /-- R208: branch if Z = 0 -/
  | bne (disp : Byte)
  /-- R209: branch if Z = 1 -/
  | beq (disp : Byte)
  /-- R210: jump to subroutine -/
  | jsr (addr : Word)
  /-- R211: return from subroutine -/
  | rts
  -- Flags and system (45_flags_system.md)
  /-- R220: clear carry -/
  | clc
  /-- R221: set carry -/
  | sec
  /-- R222: clear interrupt-disable -/
  | cli
  /-- R223: set interrupt-disable -/
  | sei
  /-- R224: clear decimal -/
  | cld
  /-- R225: set decimal -/
  | sed
  /-- R226: clear overflow -/
  | clv
  /-- R227: software interrupt -/
  | brk
  /-- R229: return from interrupt -/
  | rti
  /-- R228: no operation -/
  | nop
  /-- R230, R231: the placeholder `???`, with the opcode byte that was fetched -/
  | unofficial (op : Byte)
  deriving DecidableEq, Repr

end Sys2Proof
end

