-- ==== Sys2Proof/WellFormed.lean ====
section
/-! DEFINITION. Which instructions exist: the addressing modes each mnemonic's "Encoding" line lists
(files 40 to 45 of spec/), and the bytes of 30_encoding.md R119 for the placeholder. -/

namespace Sys2Proof

/-- The eight modes of ADC, SBC, AND, ORA, EOR, CMP and LDA (R140 to R144, R155, R170). -/
def aluModes : List ModeTag := [.imm, .zp0, .zpx, .abs, .abx, .aby, .izx, .izy]

/-- The five modes of ASL, LSR, ROL and ROR (R150 to R153). -/
def shiftModes : List ModeTag := [.imp, .zp0, .zpx, .abs, .abx]

/-- The four modes of INC and DEC (R160, R161). -/
def stepModes : List ModeTag := [.zp0, .zpx, .abs, .abx]

/-- The 105 unofficial opcode bytes, as R119 lists them. -/
def unofficialOpcodes : List Byte :=
  [0x02, 0x03, 0x04, 0x07, 0x0B, 0x0C, 0x0F, 0x12, 0x13, 0x14, 0x17, 0x1A, 0x1B, 0x1C, 0x1F] ++
  [0x22, 0x23, 0x27, 0x2B, 0x2F, 0x32, 0x33, 0x34, 0x37, 0x3A, 0x3B, 0x3C, 0x3F] ++
  [0x42, 0x43, 0x44, 0x47, 0x4B, 0x4F, 0x52, 0x53, 0x54, 0x57, 0x5A, 0x5B, 0x5C, 0x5F] ++
  [0x62, 0x63, 0x64, 0x67, 0x6B, 0x6F, 0x72, 0x73, 0x74, 0x77, 0x7A, 0x7B, 0x7C, 0x7F] ++
  [0x80, 0x82, 0x83, 0x87, 0x89, 0x8B, 0x8F, 0x92, 0x93, 0x97, 0x9B, 0x9C, 0x9E, 0x9F] ++
  [0xA3, 0xA7, 0xAB, 0xAF, 0xB2, 0xB3, 0xB7, 0xBB, 0xBF] ++
  [0xC2, 0xC3, 0xC7, 0xCB, 0xCF, 0xD2, 0xD3, 0xD4, 0xD7, 0xDA, 0xDB, 0xDC, 0xDF] ++
  [0xE2, 0xE3, 0xE7, 0xEB, 0xEF, 0xF2, 0xF3, 0xF4, 0xF7, 0xFA, 0xFB, 0xFC, 0xFF]

/-- The check: the mode is one the table gives the mnemonic; a placeholder carries an unofficial byte. -/
def Instr.wf : Instr → Bool
  | .adc m | .sbc m | .and m | .ora m | .eor m | .cmp m | .lda m => aluModes.contains m.tag
  | .bit m => [ModeTag.zp0, .abs].contains m.tag
  | .asl m | .lsr m | .rol m | .ror m => shiftModes.contains m.tag
  | .cpx m | .cpy m => [ModeTag.imm, .zp0, .abs].contains m.tag
  | .inc m | .dec m => stepModes.contains m.tag
  | .ldx m => [ModeTag.imm, .zp0, .zpy, .abs, .aby].contains m.tag
  | .ldy m => [ModeTag.imm, .zp0, .zpx, .abs, .abx].contains m.tag
  | .sta m => [ModeTag.zp0, .zpx, .abs, .abx, .aby, .izx, .izy].contains m.tag
  | .stx m => [ModeTag.zp0, .zpy, .abs].contains m.tag
  | .sty m => [ModeTag.zp0, .zpx, .abs].contains m.tag
  | .jmp m => [ModeTag.abs, .ind].contains m.tag
  | .unofficial op => unofficialOpcodes.contains op
  | .inx | .iny | .dex | .dey | .tax | .tay | .txa | .tya | .tsx | .txs => true
  | .php | .plp | .pha | .pla | .jsr _ | .rts => true
  | .bpl _ | .bmi _ | .bvc _ | .bvs _ | .bcc _ | .bcs _ | .bne _ | .beq _ => true
  | .clc | .sec | .cli | .sei | .cld | .sed | .clv | .brk | .rti | .nop => true

/-- A well-formed instruction: one the opcode table has. -/
abbrev Instr.WellFormed (i : Instr) : Prop := i.wf = true

end Sys2Proof
end

