-- ==== Sys2Proof/Decode.lean ====
section
/-! DEFINITION. The opcode table (30_encoding.md R117, R118), the decoder, total on any bytes, and the
encoder, both over that one table. -/

namespace Sys2Proof

/-- `hi:lo`, the 16-bit quantity `(hi << 8) | lo` of two bytes (00_scope.md R7). -/
def word (hi lo : Byte) : Word := (hi.setWidth 16 <<< 8) ||| lo.setWidth 16

/-- Bits 7 to 0 of a 16-bit quantity. -/
def loByte (w : Word) : Byte := w.extractLsb' 0 8

/-- Bits 15 to 8 of a 16-bit quantity. -/
def hiByte (w : Word) : Byte := w.extractLsb' 8 8

/-- How many operand bytes a mode reads (R100). -/
def ModeTag.operands : ModeTag → Nat
  | .imp => 0
  | .imm | .zp0 | .zpx | .zpy | .izx | .izy | .rel => 1
  | .abs | .abx | .aby | .ind => 2

/-- The mode with its operand bytes, `b1` first in the instruction stream (R100, 20_memory.md R60). -/
def Mode.ofBytes (t : ModeTag) (b1 b2 : Byte) : Mode :=
  match t with
  | .imp => .imp
  | .imm => .imm b1
  | .zp0 => .zp0 b1
  | .zpx => .zpx b1
  | .zpy => .zpy b1
  | .abs => .abs (word b2 b1)
  | .abx => .abx (word b2 b1)
  | .aby => .aby (word b2 b1)
  | .ind => .ind (word b2 b1)
  | .izx => .izx b1
  | .izy => .izy b1
  | .rel => .rel b1

/-- The operand bytes in the order of the instruction stream (R100). -/
def Mode.bytes : Mode → List Byte
  | .imp => []
  | .imm b | .zp0 b | .zpx b | .zpy b | .izx b | .izy b | .rel b => [b]
  | .abs w | .abx w | .aby w | .ind w => [loByte w, hiByte w]

/-- The byte of a one-byte operand (0 for the other modes; used for REL only). -/
def Mode.byte : Mode → Byte
  | .imm b | .zp0 b | .zpx b | .zpy b | .izx b | .izy b | .rel b => b
  | .imp | .abs _ | .abx _ | .aby _ | .ind _ => 0

/-- The quantity of a two-byte operand (0 for the other modes; used for JSR's ABS only). -/
def Mode.addr : Mode → Word
  | .abs w | .abx w | .aby w | .ind w => w
  | .imp | .imm _ | .zp0 _ | .zpx _ | .zpy _ | .izx _ | .izy _ | .rel _ => 0

/-- The mnemonics of the table; `unofficial` is the placeholder `???` (R119). -/
inductive Mnem
  | adc | sbc | and | ora | eor | bit
  | asl | lsr | rol | ror | cmp | cpx | cpy | inc | dec | inx | iny | dex | dey
  | lda | ldx | ldy | sta | stx | sty | tax | tay | txa | tya | tsx | txs
  | php | plp | pha | pla
  | jmp | bpl | bmi | bvc | bvs | bcc | bcs | bne | beq | jsr | rts
  | clc | sec | cli | sei | cld | sed | clv | brk | rti | nop | unofficial
  deriving DecidableEq, Repr

/-- One entry of the opcode table: the opcode byte, its mnemonic, its mode tag and its base cycle cost
(R117). -/
structure Row where
  op : Byte
  mnem : Mnem
  tag : ModeTag
  base : Nat
  deriving DecidableEq, Repr

/-- Rows 0x00 to 0x1F of the map of R118. -/
def officialRows01 : List Row := [
  ⟨0x00, .brk, .imp, 7⟩,
  ⟨0x01, .ora, .izx, 6⟩,
  ⟨0x05, .ora, .zp0, 3⟩,
  ⟨0x06, .asl, .zp0, 5⟩,
  ⟨0x08, .php, .imp, 3⟩,
  ⟨0x09, .ora, .imm, 2⟩,
  ⟨0x0A, .asl, .imp, 2⟩,
  ⟨0x0D, .ora, .abs, 4⟩,
  ⟨0x0E, .asl, .abs, 6⟩,
  ⟨0x10, .bpl, .rel, 2⟩,
  ⟨0x11, .ora, .izy, 5⟩,
  ⟨0x15, .ora, .zpx, 4⟩,
  ⟨0x16, .asl, .zpx, 6⟩,
  ⟨0x18, .clc, .imp, 2⟩,
  ⟨0x19, .ora, .aby, 4⟩,
  ⟨0x1D, .ora, .abx, 4⟩,
  ⟨0x1E, .asl, .abx, 7⟩]

/-- Rows 0x20 to 0x3F of the map of R118. -/
def officialRows23 : List Row := [
  ⟨0x20, .jsr, .abs, 6⟩,
  ⟨0x21, .and, .izx, 6⟩,
  ⟨0x24, .bit, .zp0, 3⟩,
  ⟨0x25, .and, .zp0, 3⟩,
  ⟨0x26, .rol, .zp0, 5⟩,
  ⟨0x28, .plp, .imp, 4⟩,
  ⟨0x29, .and, .imm, 2⟩,
  ⟨0x2A, .rol, .imp, 2⟩,
  ⟨0x2C, .bit, .abs, 4⟩,
  ⟨0x2D, .and, .abs, 4⟩,
  ⟨0x2E, .rol, .abs, 6⟩,
  ⟨0x30, .bmi, .rel, 2⟩,
  ⟨0x31, .and, .izy, 5⟩,
  ⟨0x35, .and, .zpx, 4⟩,
  ⟨0x36, .rol, .zpx, 6⟩,
  ⟨0x38, .sec, .imp, 2⟩,
  ⟨0x39, .and, .aby, 4⟩,
  ⟨0x3D, .and, .abx, 4⟩,
  ⟨0x3E, .rol, .abx, 7⟩]

/-- Rows 0x40 to 0x5F of the map of R118. -/
def officialRows45 : List Row := [
  ⟨0x40, .rti, .imp, 6⟩,
  ⟨0x41, .eor, .izx, 6⟩,
  ⟨0x45, .eor, .zp0, 3⟩,
  ⟨0x46, .lsr, .zp0, 5⟩,
  ⟨0x48, .pha, .imp, 3⟩,
  ⟨0x49, .eor, .imm, 2⟩,
  ⟨0x4A, .lsr, .imp, 2⟩,
  ⟨0x4C, .jmp, .abs, 3⟩,
  ⟨0x4D, .eor, .abs, 4⟩,
  ⟨0x4E, .lsr, .abs, 6⟩,
  ⟨0x50, .bvc, .rel, 2⟩,
  ⟨0x51, .eor, .izy, 5⟩,
  ⟨0x55, .eor, .zpx, 4⟩,
  ⟨0x56, .lsr, .zpx, 6⟩,
  ⟨0x58, .cli, .imp, 2⟩,
  ⟨0x59, .eor, .aby, 4⟩,
  ⟨0x5D, .eor, .abx, 4⟩,
  ⟨0x5E, .lsr, .abx, 7⟩]

/-- Rows 0x60 to 0x7F of the map of R118. -/
def officialRows67 : List Row := [
  ⟨0x60, .rts, .imp, 6⟩,
  ⟨0x61, .adc, .izx, 6⟩,
  ⟨0x65, .adc, .zp0, 3⟩,
  ⟨0x66, .ror, .zp0, 5⟩,
  ⟨0x68, .pla, .imp, 4⟩,
  ⟨0x69, .adc, .imm, 2⟩,
  ⟨0x6A, .ror, .imp, 2⟩,
  ⟨0x6C, .jmp, .ind, 5⟩,
  ⟨0x6D, .adc, .abs, 4⟩,
  ⟨0x6E, .ror, .abs, 6⟩,
  ⟨0x70, .bvs, .rel, 2⟩,
  ⟨0x71, .adc, .izy, 5⟩,
  ⟨0x75, .adc, .zpx, 4⟩,
  ⟨0x76, .ror, .zpx, 6⟩,
  ⟨0x78, .sei, .imp, 2⟩,
  ⟨0x79, .adc, .aby, 4⟩,
  ⟨0x7D, .adc, .abx, 4⟩,
  ⟨0x7E, .ror, .abx, 7⟩]

/-- Rows 0x80 to 0x9F of the map of R118. -/
def officialRows89 : List Row := [
  ⟨0x81, .sta, .izx, 6⟩,
  ⟨0x84, .sty, .zp0, 3⟩,
  ⟨0x85, .sta, .zp0, 3⟩,
  ⟨0x86, .stx, .zp0, 3⟩,
  ⟨0x88, .dey, .imp, 2⟩,
  ⟨0x8A, .txa, .imp, 2⟩,
  ⟨0x8C, .sty, .abs, 4⟩,
  ⟨0x8D, .sta, .abs, 4⟩,
  ⟨0x8E, .stx, .abs, 4⟩,
  ⟨0x90, .bcc, .rel, 2⟩,
  ⟨0x91, .sta, .izy, 6⟩,
  ⟨0x94, .sty, .zpx, 4⟩,
  ⟨0x95, .sta, .zpx, 4⟩,
  ⟨0x96, .stx, .zpy, 4⟩,
  ⟨0x98, .tya, .imp, 2⟩,
  ⟨0x99, .sta, .aby, 5⟩,
  ⟨0x9A, .txs, .imp, 2⟩,
  ⟨0x9D, .sta, .abx, 5⟩]

/-- Rows 0xA0 to 0xBF of the map of R118. -/
def officialRowsAB : List Row := [
  ⟨0xA0, .ldy, .imm, 2⟩,
  ⟨0xA1, .lda, .izx, 6⟩,
  ⟨0xA2, .ldx, .imm, 2⟩,
  ⟨0xA4, .ldy, .zp0, 3⟩,
  ⟨0xA5, .lda, .zp0, 3⟩,
  ⟨0xA6, .ldx, .zp0, 3⟩,
  ⟨0xA8, .tay, .imp, 2⟩,
  ⟨0xA9, .lda, .imm, 2⟩,
  ⟨0xAA, .tax, .imp, 2⟩,
  ⟨0xAC, .ldy, .abs, 4⟩,
  ⟨0xAD, .lda, .abs, 4⟩,
  ⟨0xAE, .ldx, .abs, 4⟩,
  ⟨0xB0, .bcs, .rel, 2⟩,
  ⟨0xB1, .lda, .izy, 5⟩,
  ⟨0xB4, .ldy, .zpx, 4⟩,
  ⟨0xB5, .lda, .zpx, 4⟩,
  ⟨0xB6, .ldx, .zpy, 4⟩,
  ⟨0xB8, .clv, .imp, 2⟩,
  ⟨0xB9, .lda, .aby, 4⟩,
  ⟨0xBA, .tsx, .imp, 2⟩,
  ⟨0xBC, .ldy, .abx, 4⟩,
  ⟨0xBD, .lda, .abx, 4⟩,
  ⟨0xBE, .ldx, .aby, 4⟩]

/-- Rows 0xC0 to 0xDF of the map of R118. -/
def officialRowsCD : List Row := [
  ⟨0xC0, .cpy, .imm, 2⟩,
  ⟨0xC1, .cmp, .izx, 6⟩,
  ⟨0xC4, .cpy, .zp0, 3⟩,
  ⟨0xC5, .cmp, .zp0, 3⟩,
  ⟨0xC6, .dec, .zp0, 5⟩,
  ⟨0xC8, .iny, .imp, 2⟩,
  ⟨0xC9, .cmp, .imm, 2⟩,
  ⟨0xCA, .dex, .imp, 2⟩,
  ⟨0xCC, .cpy, .abs, 4⟩,
  ⟨0xCD, .cmp, .abs, 4⟩,
  ⟨0xCE, .dec, .abs, 6⟩,
  ⟨0xD0, .bne, .rel, 2⟩,
  ⟨0xD1, .cmp, .izy, 5⟩,
  ⟨0xD5, .cmp, .zpx, 4⟩,
  ⟨0xD6, .dec, .zpx, 6⟩,
  ⟨0xD8, .cld, .imp, 2⟩,
  ⟨0xD9, .cmp, .aby, 4⟩,
  ⟨0xDD, .cmp, .abx, 4⟩,
  ⟨0xDE, .dec, .abx, 7⟩]

/-- Rows 0xE0 to 0xFF of the map of R118. -/
def officialRowsEF : List Row := [
  ⟨0xE0, .cpx, .imm, 2⟩,
  ⟨0xE1, .sbc, .izx, 6⟩,
  ⟨0xE4, .cpx, .zp0, 3⟩,
  ⟨0xE5, .sbc, .zp0, 3⟩,
  ⟨0xE6, .inc, .zp0, 5⟩,
  ⟨0xE8, .inx, .imp, 2⟩,
  ⟨0xE9, .sbc, .imm, 2⟩,
  ⟨0xEA, .nop, .imp, 2⟩,
  ⟨0xEC, .cpx, .abs, 4⟩,
  ⟨0xED, .sbc, .abs, 4⟩,
  ⟨0xEE, .inc, .abs, 6⟩,
  ⟨0xF0, .beq, .rel, 2⟩,
  ⟨0xF1, .sbc, .izy, 5⟩,
  ⟨0xF5, .sbc, .zpx, 4⟩,
  ⟨0xF6, .inc, .zpx, 6⟩,
  ⟨0xF8, .sed, .imp, 2⟩,
  ⟨0xF9, .sbc, .aby, 4⟩,
  ⟨0xFD, .sbc, .abx, 4⟩,
  ⟨0xFE, .inc, .abx, 7⟩]

/-- The 151 official entries (R118). -/
def officialRows : List Row :=
  officialRows01 ++ officialRows23 ++ officialRows45 ++ officialRows67 ++
    officialRows89 ++ officialRowsAB ++ officialRowsCD ++ officialRowsEF

/-- `TABLE[op]`: total, since a byte with no official entry has the placeholder's, which is mode IMP and
costs 2 (R117, R119, 45_flags_system.md R230). -/
def rowOf (op : Byte) : Row :=
  (officialRows.find? fun r => r.op == op).getD ⟨op, .unofficial, .imp, 2⟩

/-- The opcode byte of an official mnemonic and mode, read off the same table. -/
def opcodeOf (n : Mnem) (t : ModeTag) : Option Byte :=
  (officialRows.find? fun r => r.mnem == n && r.tag == t).map Row.op

/-- The instruction of a table entry with its operand bytes. -/
def Instr.ofRow (r : Row) (m : Mode) : Instr :=
  match r.mnem with
  | .adc => .adc m
  | .sbc => .sbc m
  | .and => .and m
  | .ora => .ora m
  | .eor => .eor m
  | .bit => .bit m
  | .asl => .asl m
  | .lsr => .lsr m
  | .rol => .rol m
  | .ror => .ror m
  | .cmp => .cmp m
  | .cpx => .cpx m
  | .cpy => .cpy m
  | .inc => .inc m
  | .dec => .dec m
  | .inx => .inx
  | .iny => .iny
  | .dex => .dex
  | .dey => .dey
  | .lda => .lda m
  | .ldx => .ldx m
  | .ldy => .ldy m
  | .sta => .sta m
  | .stx => .stx m
  | .sty => .sty m
  | .tax => .tax
  | .tay => .tay
  | .txa => .txa
  | .tya => .tya
  | .tsx => .tsx
  | .txs => .txs
  | .php => .php
  | .plp => .plp
  | .pha => .pha
  | .pla => .pla
  | .jmp => .jmp m
  | .bpl => .bpl m.byte
  | .bmi => .bmi m.byte
  | .bvc => .bvc m.byte
  | .bvs => .bvs m.byte
  | .bcc => .bcc m.byte
  | .bcs => .bcs m.byte
  | .bne => .bne m.byte
  | .beq => .beq m.byte
  | .jsr => .jsr m.addr
  | .rts => .rts
  | .clc => .clc
  | .sec => .sec
  | .cli => .cli
  | .sei => .sei
  | .cld => .cld
  | .sed => .sed
  | .clv => .clv
  | .brk => .brk
  | .rti => .rti
  | .nop => .nop
  | .unofficial => .unofficial r.op

/-- The mnemonic of an instruction. -/
def Instr.mnem : Instr → Mnem
  | .adc _ => .adc
  | .sbc _ => .sbc
  | .and _ => .and
  | .ora _ => .ora
  | .eor _ => .eor
  | .bit _ => .bit
  | .asl _ => .asl
  | .lsr _ => .lsr
  | .rol _ => .rol
  | .ror _ => .ror
  | .cmp _ => .cmp
  | .cpx _ => .cpx
  | .cpy _ => .cpy
  | .inc _ => .inc
  | .dec _ => .dec
  | .inx => .inx
  | .iny => .iny
  | .dex => .dex
  | .dey => .dey
  | .lda _ => .lda
  | .ldx _ => .ldx
  | .ldy _ => .ldy
  | .sta _ => .sta
  | .stx _ => .stx
  | .sty _ => .sty
  | .tax => .tax
  | .tay => .tay
  | .txa => .txa
  | .tya => .tya
  | .tsx => .tsx
  | .txs => .txs
  | .php => .php
  | .plp => .plp
  | .pha => .pha
  | .pla => .pla
  | .jmp _ => .jmp
  | .bpl _ => .bpl
  | .bmi _ => .bmi
  | .bvc _ => .bvc
  | .bvs _ => .bvs
  | .bcc _ => .bcc
  | .bcs _ => .bcs
  | .bne _ => .bne
  | .beq _ => .beq
  | .jsr _ => .jsr
  | .rts => .rts
  | .clc => .clc
  | .sec => .sec
  | .cli => .cli
  | .sei => .sei
  | .cld => .cld
  | .sed => .sed
  | .clv => .clv
  | .brk => .brk
  | .rti => .rti
  | .nop => .nop
  | .unofficial _ => .unofficial

/-- The addressing mode of an instruction, with its operand bytes. -/
def Instr.mode : Instr → Mode
  | .adc m | .sbc m | .and m | .ora m | .eor m | .bit m | .asl m | .lsr m | .rol m | .ror m
  | .cmp m | .cpx m | .cpy m | .inc m | .dec m | .lda m | .ldx m | .ldy m | .sta m | .stx m
  | .sty m | .jmp m => m
  | .bpl d | .bmi d | .bvc d | .bvs d | .bcc d | .bcs d | .bne d | .beq d => .rel d
  | .jsr w => .abs w
  | .unofficial _ => .imp
  | .inx | .iny | .dex | .dey | .tax | .tay | .txa | .tya | .tsx | .txs | .php | .plp | .pha
  | .pla | .rts | .clc | .sec | .cli | .sei | .cld | .sed | .clv | .brk | .rti | .nop => .imp

/-- The instruction of three bytes, of which the mode reads the operand bytes it needs (R116). -/
def Instr.ofBytes (op b1 b2 : Byte) : Instr :=
  .ofRow (rowOf op) (.ofBytes (rowOf op).tag b1 b2)

/-- Why a list of bytes holds no instruction: no byte value is undecodable (R120), so only for want of
bytes. -/
inductive DecodeError
  /-- there is no opcode byte -/
  | noOpcode
  /-- the list ends before the operand bytes of this opcode -/
  | missingOperand (op : Byte)
  deriving DecidableEq, Repr

/-- The first instruction of a list of bytes and the rest of the list (R100). -/
def decode : List Byte → Except DecodeError (Instr × List Byte)
  | [] => .error .noOpcode
  | op :: rest =>
    match (rowOf op).tag.operands, rest with
    | 0, rest => .ok (.ofBytes op 0 0, rest)
    | 1, b1 :: rest => .ok (.ofBytes op b1 0, rest)
    | 2, b1 :: b2 :: rest => .ok (.ofBytes op b1 b2, rest)
    | _, _ => .error (.missingOperand op)

/-- The bytes of a well-formed instruction: the opcode byte, then the operand bytes (R100, R118). An
ill-formed instruction has none. -/
def encode (i : Instr) : List Byte :=
  match i with
  | .unofficial op => if unofficialOpcodes.contains op then [op] else []
  | i => ((opcodeOf i.mnem i.mode.tag).map fun op => op :: i.mode.bytes).getD []

/-- The bytes of an instruction whose first `nbits` bits are those of `w` and whose other bits are 0, as
the hardware stores them: the byte with bits 7 to 0 at the lowest address. -/
def tableBytes (nbits w : Nat) : List Byte :=
  let v := w % 2 ^ nbits
  [BitVec.ofNat 8 v, BitVec.ofNat 8 (v / 2 ^ 8), BitVec.ofNat 8 (v / 2 ^ 16)]

/-- What the decoder reads from an instruction given by its bits as spec/opcode_table.json numbers
them. -/
def decodeTableWord (nbits w : Nat) : Option Instr :=
  match decode (tableBytes nbits w) with
  | .ok (i, _) => some i
  | .error _ => none

end Sys2Proof
end

