-- ==== Sys2Proof/Config.lean ====
section
/-! DEFINITION. The sizes and vectors the source fixes, and the parameters of 00_scope.md R6. -/

namespace Sys2Proof

/-- A byte memory: the cells that differ from what an unlisted address reads as, at strictly rising
addresses (the canonical form, `Memory.wf`). -/
abbrev Memory := List Host.Cell

namespace Config

/-- `WRAM_SIZE`, fixed (R6). -/
def wramSize : Nat := 2048

/-- One nametable; there are two (`NAMETABLE_SIZE`, fixed, R6). -/
def nametableSize : Nat := 1024

/-- `PALETTE_SIZE`, fixed (R6). -/
def paletteSize : Nat := 32

/-- `PRG_BANK_SIZE`, fixed (R6). -/
def prgBankSize : Nat := 16384

/-- `CHR_BANK_SIZE`, fixed (R6). -/
def chrBankSize : Nat := 8192

/-- `CLOCK_RATIO`: master pulses per CPU clock, fixed (R6). -/
def clockRatio : Nat := 3

/-- `RESET_VECTOR`: the address of its low byte, fixed (R6). -/
def resetVector : Word := 0xFFFC

/-- `IRQ_VECTOR`, which BRK uses too: the address of its low byte, fixed (R6). -/
def irqVector : Word := 0xFFFE

/-- What the `n`-th read of a graphics byte past the end of the array returns: a free value, since R6 and
D33 allow any `CHR_RAM_SIZE` and no rule says what mapper 0 then reads there (log 9). -/
opaque absentByte : Nat → Byte

end Config

/-- `ILLEGAL_OPCODE_POLICY` (R6; 45_flags_system.md R231, R232). -/
inductive IllegalPolicy
  /-- the source's placeholder: the default -/
  | nop
  /-- the model stops at an unofficial opcode -/
  | fault
  deriving DecidableEq, Repr

/-- `PRG_WRITE_POLICY` (R6; 20_memory.md R73). -/
inductive PrgWritePolicy
  /-- the byte at the translated index is overwritten: the default -/
  | store
  /-- a claimed CPU write is dropped -/
  | discard
  deriving DecidableEq, Repr

/-- `INIT_MEMORY`: the power-on contents of the memories that survive reset, and of the graphics RAM a
cartridge without graphics banks gets (R6, D21). -/
structure InitMemory where
  wram : Memory
  nametable : Memory
  palette : Memory
  chrRam : Memory
  deriving DecidableEq, Repr

/-- The parameters of R6, held in the state as data that no step changes, so that a statement about
every state is a statement about every setting of them (log 7). -/
structure Params where
  nmiVector : Word
  illegalPolicy : IllegalPolicy
  prgWritePolicy : PrgWritePolicy
  chrRamSize : Nat
  init : InitMemory
  deriving DecidableEq, Repr

/-- The defaults of R6. `INIT_MEMORY` has none ("any bytes"): here every byte is the one an unlisted
cell reads as. DESIGN CHOICE (log 1), unsafe: hardware may power up with other bytes. -/
def Params.default : Params where
  nmiVector := 0xFFFE
  illegalPolicy := .nop
  prgWritePolicy := .store
  chrRamSize := 8192
  init := { wram := [], nametable := [], palette := [], chrRam := [] }

end Sys2Proof
end

