-- ==== Sys2Proof/Machine/State.lean ====
section
/-! DEFINITION. The machine's state as plain data, the reasons a step can stop, and the state right after
reset. -/

namespace Sys2Proof.Machine

/-- The four mirroring modes (10_state.md R46; 60_exceptions.md R265). -/
inductive Mirroring
  | horizontal | vertical | singleLow | singleHigh
  deriving DecidableEq, Repr

/-- A cartridge's mapper: bank counts, no raw bytes. The registry holds only mapper 0, which copies its
two bank counts at construction and has no bank-select state (10_state.md R47; 20_memory.md R79). -/
inductive Mapper
  | mapper0 (prgBanks chrBanks : Byte)
  deriving DecidableEq, Repr

/-- The cartridge, set once at insertion (10_state.md R46). -/
structure Cartridge where
  /-- the program-ROM bytes -/
  prg : Memory
  /-- the graphics bytes, ROM or RAM -/
  chr : Memory
  /-- the header's program-bank count -/
  prgBanks : Byte
  /-- the header's graphics-bank count; 0 means graphics RAM -/
  chrBanks : Byte
  /-- the declared mapper id -/
  mapperId : Byte
  /-- the nametable mirroring mode -/
  mirror : Mirroring
  /-- the owned mapper -/
  mapper : Mapper
  deriving DecidableEq, Repr

/-- The video-register interface (10_state.md R36). -/
structure VideoRegs where
  /-- the Control register (R37) -/
  control : Byte
  /-- the Mask register (R38) -/
  mask : Byte
  /-- the live status byte (R39) -/
  status : Byte
  /-- the address-write latch: true when the next Address write is the second of the pair (R40) -/
  latch : Bool
  /-- the VRAM address (R41) -/
  vramAddr : Word
  /-- the buffered-read byte (R42) -/
  buffer : Byte
  /-- how many bytes past the end of the graphics array have been read: the model's own field, which picks
  the free value of the next such read (log 9) -/
  drawn : Nat
  /-- the two physical nametables: byte i of table t is cell 1024 t + i (R43; log 13) -/
  nametable : Memory
  /-- the palette (R44) -/
  palette : Memory
  deriving DecidableEq, Repr

/-- Why cartridge construction fails (20_memory.md R85). -/
inductive LoadError
  /-- the image file is missing -/
  | missingFile
  /-- the image is shorter than its 16-byte header -/
  | shortHeader
  /-- no mapper of the registry has the header's id (R79) -/
  | unsupportedMapper (id : Byte)
  /-- mapper 0 with a program-bank count other than 1 or 2 (R75, D32) -/
  | badPrgBanks (banks : Byte)
  /-- program or graphics data shorter than the header declares (D44) -/
  | shortData
  deriving DecidableEq, Repr

/-- The model-level faults of 00_scope.md R9. The CORE itself raises none (60_exceptions.md R240). -/
inductive Fault
  /-- Raised by the host's insertion of an image whose construction fails (20_memory.md R85). No cartridge
  is inserted. Safe: the spec reports the error to the host, which must not run the machine. -/
  | loadError (e : LoadError)
  /-- Raised by the placeholder under `ILLEGAL_OPCODE_POLICY = fault`, with the opcode byte and its
  address (45_flags_system.md R232). Safe: the model stops where the CORE would go on. -/
  | illegalOpcode (opcode : Byte) (addr : Word)
  deriving DecidableEq, Repr

/-- What the model does not run. -/
inductive Refusal
  /-- Raised by `exec` for an instruction that has no meaning yet. Safe: nothing is said about it. -/
  | notModelled (mnemonic : String)
  /-- Raised by a master pulse before the first `Bus.Reset()`: such a run has no defined state
  (10_state.md R50; 93_implementation_defined.md Part 1 row 3). Safe: nothing is said about it. -/
  | pulseBeforeReset
  /-- Raised by the host's insertion of a second cartridge: the spec inserts one exactly once
  (20_memory.md R87; log 8). Safe: nothing is said about it. -/
  | secondInsertion
  deriving DecidableEq, Repr

/-- One atomic entry of the total order of pulses, host actions and environment events
(70_reset_and_hazards.md R318; 60_exceptions.md R271). The host's read-only actions (snapshot, peek,
disassembly) change no state and are functions of the state instead (Machine/Debug.lean). -/
inductive HostAction
  /-- one master pulse (R270) -/
  | pulse
  /-- `Bus.Reset()` (70_reset_and_hazards.md R300) -/
  | reset
  /-- construct a cartridge from an image file (`none` when the file is missing) and insert it
  (20_memory.md R85, R87) -/
  | insert (image : Option (List Byte))
  /-- a debug read of a CPU address without the read-only flag: a bus read with its side effects (R271) -/
  | debugRead (addr : Word)
  /-- the environment requests an NMI (R241) -/
  | nmiRequest
  /-- the environment drives the IRQ input (R241) -/
  | irqLine (level : Bool)
  /-- the excluded rendering pipeline sets Status bits 7 to 5 (R268) -/
  | statusEvent (bits : BitVec 3)
  deriving DecidableEq, Repr

/-- Every piece of state the spec gives the machine (10_state.md), and the model's own fields `wasReset`,
`schedule` and `vr.drawn`. -/
structure State where
  /-- the accumulator `A` (10_state.md R21) -/
  a : Byte
  /-- the index register `X` (R22) -/
  x : Byte
  /-- the index register `Y` (R23) -/
  y : Byte
  /-- the stack pointer `SP`: the low byte of the next free slot of the stack page (R24) -/
  sp : Byte
  /-- the program counter `PC` (R31) -/
  pc : Word
  /-- the flags byte `P`; its bits are named in Machine/Flags.lean (R25) -/
  p : Byte
  /-- the remaining-cycle counter (R32) -/
  cycles : Nat
  /-- the opcode byte of the instruction being executed (R32) -/
  opcode : Byte
  /-- the internal fetched-operand byte (R32) -/
  fetched : Byte
  /-- the resolved address of the addressing mode (R32) -/
  ea : Word
  /-- the sign-extended displacement of the relative mode (R32) -/
  rel : Word
  /-- the latched NMI request (R33) -/
  nmiPending : Bool
  /-- the IRQ input level, which the CPU never writes (R33) -/
  irqLine : Bool
  /-- master pulses since the last reset (R34) -/
  pulseCount : Nat
  /-- the video-register interface (R35) -/
  vr : VideoRegs
  /-- the 2 KiB work RAM (R45) -/
  wram : Memory
  /-- the inserted cartridge, or none before insertion (R46, R48) -/
  cart : Option Cartridge
  /-- the parameters of 00_scope.md R6; no step changes them (log 7) -/
  params : Params
  /-- whether a `Bus.Reset()` has happened since power-on: the model's own field (R50; log 6) -/
  wasReset : Bool
  /-- the host actions and environment events still to come, oldest first: the model's own field
  (70_reset_and_hazards.md R318; log 2) -/
  schedule : List HostAction
  deriving DecidableEq, Repr

/-- `a <- v` (00_scope.md R8). -/
def State.setA (s : State) (v : Byte) : State := { s with a := v }

/-- `x <- v` (00_scope.md R8). -/
def State.setX (s : State) (v : Byte) : State := { s with x := v }

/-- `y <- v` (00_scope.md R8). -/
def State.setY (s : State) (v : Byte) : State := { s with y := v }

/-- `sp <- v` (00_scope.md R8). -/
def State.setSp (s : State) (v : Byte) : State := { s with sp := v }

/-- `pc <- v` (00_scope.md R8). -/
def State.setPc (s : State) (v : Word) : State := { s with pc := v }

/-- `p <- v` (00_scope.md R8). -/
def State.setP (s : State) (v : Byte) : State := { s with p := v }

/-- `cycles <- v` (00_scope.md R8). -/
def State.setCycles (s : State) (v : Nat) : State := { s with cycles := v }

/-- `opcode <- v` (00_scope.md R8). -/
def State.setOpcode (s : State) (v : Byte) : State := { s with opcode := v }

/-- `fetched <- v` (00_scope.md R8). -/
def State.setFetched (s : State) (v : Byte) : State := { s with fetched := v }

/-- `ea <- v` (00_scope.md R8). -/
def State.setEa (s : State) (v : Word) : State := { s with ea := v }

/-- `rel <- v` (00_scope.md R8). -/
def State.setRel (s : State) (v : Word) : State := { s with rel := v }

/-- `nmiPending <- v` (00_scope.md R8). -/
def State.setNmiPending (s : State) (v : Bool) : State := { s with nmiPending := v }

/-- `irqLine <- v` (00_scope.md R8). -/
def State.setIrqLine (s : State) (v : Bool) : State := { s with irqLine := v }

/-- `pulseCount <- v` (00_scope.md R8). -/
def State.setPulseCount (s : State) (v : Nat) : State := { s with pulseCount := v }

/-- `vr <- v` (00_scope.md R8). -/
def State.setVr (s : State) (v : VideoRegs) : State := { s with vr := v }

/-- `wram <- v` (00_scope.md R8). -/
def State.setWram (s : State) (v : Memory) : State := { s with wram := v }

/-- `cart <- v` (00_scope.md R8). -/
def State.setCart (s : State) (v : Option Cartridge) : State := { s with cart := v }

/-- `wasReset <- v` (00_scope.md R8). -/
def State.setWasReset (s : State) (v : Bool) : State := { s with wasReset := v }

/-- `schedule <- v` (00_scope.md R8). -/
def State.setSchedule (s : State) (v : List HostAction) : State := { s with schedule := v }

/-- The machine right after `Bus.Reset()` (10_state.md R49; 70_reset_and_hazards.md R300), with the
parameters' defaults and no cartridge inserted, so that the vector reads 0x0000 (R303). The spec leaves
open, and log entries choose: the memories' contents (log 1), the absence of a cartridge (log 3), the
internal registers `opcode`, `fetched`, `ea`, `rel` (log 4), the level of `irq_line` (log 5), the count of
free values drawn (log 9). -/
def State.reset : State where
  a := 0x00
  x := 0x00
  y := 0x00
  sp := 0xFD
  pc := 0x0000
  p := 0x20
  cycles := 8
  opcode := 0x00
  fetched := 0x00
  ea := 0x0000
  rel := 0x0000
  nmiPending := false
  irqLine := false
  pulseCount := 0
  vr := { control := 0x00, mask := 0x00, status := 0x00, latch := false, vramAddr := 0x0000, buffer := 0x00, drawn := 0, nametable := [], palette := [] }
  wram := []
  cart := none
  params := Params.default
  wasReset := true
  schedule := []

end Sys2Proof.Machine
end

