-- ==== Sys2Proof/Machine/Flags.lean ====
section
/-! DEFINITION. The flags byte `P`, and every flag computation of files 40 to 45 of spec/, on plain
bytes. -/

namespace Sys2Proof.Machine

/-- The eight flags (10_state.md R25). -/
inductive Flag
  | c | z | i | d | b | u | v | n
  deriving DecidableEq, Repr

/-- The bit of `P` a flag is (R25). -/
def Flag.bit : Flag → Nat
  | .c => 0
  | .z => 1
  | .i => 2
  | .d => 3
  | .b => 4
  | .u => 5
  | .v => 6
  | .n => 7

/-- `P.f`. -/
def flag (f : Flag) (p : Byte) : Bool := p.getLsbD f.bit

/-- `P` after `P.f <- v`. -/
def setFlag (f : Flag) (v : Bool) (p : Byte) : Byte :=
  if v then p ||| BitVec.twoPow 8 f.bit else p &&& ~~~ BitVec.twoPow 8 f.bit

/-- `SetZN(r)` (R29). -/
def setZN (r p : Byte) : Byte := setFlag .n (r.getLsbD 7) (setFlag .z (r == 0x00) p)

/-- The nine-bit sum of two bytes and a carry (40_arith_logic.md R140, R141). -/
def sum9 (a m : Byte) (c : Bool) : BitVec 9 :=
  a.setWidth 9 + m.setWidth 9 + (BitVec.ofBool c).setWidth 9

/-- The result byte of a sum: its bits 7 to 0. -/
def sumResult (a m : Byte) (c : Bool) : Byte := (sum9 a m c).setWidth 8

/-- The carry of a sum: its bit 8. -/
def sumCarry (a m : Byte) (c : Bool) : Bool := (sum9 a m c).getLsbD 8

/-- ADC's V: both inputs have one sign and the result the other (R140). -/
def addOverflow (a m r : Byte) : Bool := (~~~(a ^^^ m) &&& (a ^^^ r)).getLsbD 7

/-- SBC's V: the inputs differ in sign and the result's sign is not `A`'s (R141; 90_conflicts.md C7). -/
def subOverflow (a m r : Byte) : Bool := ((a ^^^ m) &&& (a ^^^ r)).getLsbD 7

/-- ADC's result (R140). -/
def adcResult (a m p : Byte) : Byte := sumResult a m (flag .c p)

/-- `P` after ADC (R140). -/
def adcFlags (a m p : Byte) : Byte :=
  let r := adcResult a m p
  setZN r (setFlag .v (addOverflow a m r) (setFlag .c (sumCarry a m (flag .c p)) p))

/-- SBC's result: the adder on the complement of the operand (R141). -/
def sbcResult (a m p : Byte) : Byte := sumResult a (m ^^^ 0xFF) (flag .c p)

/-- `P` after SBC (R141). -/
def sbcFlags (a m p : Byte) : Byte :=
  let r := sbcResult a m p
  setZN r (setFlag .v (subOverflow a m r) (setFlag .c (sumCarry a (m ^^^ 0xFF) (flag .c p)) p))

/-- `P` after BIT: Z from `A & m`, N and V from bits 7 and 6 of the operand (R145; C4). -/
def bitFlags (a m p : Byte) : Byte :=
  setFlag .v (m.getLsbD 6) (setFlag .n (m.getLsbD 7) (setFlag .z ((a &&& m) == 0x00) p))

/-- `P` after a compare of register value `r` with `m` (41_shift_compare_incdec.md R155 to R157). -/
def compareFlags (r m p : Byte) : Byte :=
  setFlag .n ((r - m).getLsbD 7) (setFlag .z (r == m) (setFlag .c (decide (m ≤ r)) p))

/-- `P` after a shift or rotate with the bit shifted out and the result (R150 to R153). -/
def shiftFlags (out : Bool) (r p : Byte) : Byte := setZN r (setFlag .c out p)

/-- ASL's result (R150). -/
def aslResult (m : Byte) : Byte := m <<< 1

/-- LSR's result (R151). -/
def lsrResult (m : Byte) : Byte := m >>> 1

/-- ROL's result: the old carry enters at bit 0 (R152). -/
def rolResult (m p : Byte) : Byte := (m <<< 1) ||| (BitVec.ofBool (flag .c p)).setWidth 8

/-- ROR's result: the old carry enters at bit 7 (R153). -/
def rorResult (m p : Byte) : Byte := (m >>> 1) ||| ((BitVec.ofBool (flag .c p)).setWidth 8 <<< 7)

/-- The byte PHP pushes: `P` with B and U set (43_stack.md R192). -/
def pushedFlags (p : Byte) : Byte := p ||| 0x30

/-- `P` after loading a stacked byte: B forced to 0, U forced to 1 (R193; 45_flags_system.md R229). -/
def pulledFlags (v : Byte) : Byte := setFlag .u true (setFlag .b false v)

end Sys2Proof.Machine
end

