-- ==== Sys2Proof/Machine/Ops.lean ====
section
/-! DEFINITION. The shared operations: memory cells, mapper 0, the video registers, the Bus, the stack,
taking an interrupt and returning from one, and `Bus.Reset()`. -/

namespace Sys2Proof

/-! ## Byte memories -/

/-- What a cell that a memory does not list reads as. The spec gives the power-on contents as the
parameter `INIT_MEMORY`, any bytes (00_scope.md R6, D21): a memory with other contents lists them.
DESIGN CHOICE (log 1). -/
def Memory.unlisted : Byte := 0x00

/-- The byte at a cell. -/
def Memory.read : Memory → Nat → Byte
  | [], _ => unlisted
  | (k, v) :: m, a => if k = a then v else Memory.read m a

/-- A memory of at most one cell: nothing is listed where the byte is the one an unlisted cell reads as. -/
def Memory.cell (a : Nat) (v : Byte) : Memory := if v = unlisted then [] else [(a, v)]

/-- The memory after storing a byte, in canonical form. -/
def Memory.write : Memory → Nat → Byte → Memory
  | [], a, v => cell a v
  | (k, w) :: m, a, v =>
    if k < a then (k, w) :: Memory.write m a v
    else if k = a then cell a v ++ m
    else cell a v ++ (k, w) :: m

/-- The canonical form from address `lo` up: addresses rise strictly, and no cell holds what an unlisted
cell reads as. -/
def Memory.wfFrom : Nat → Memory → Bool
  | _, [] => true
  | lo, (k, v) :: m => decide (lo ≤ k) && (v != unlisted) && Memory.wfFrom (k + 1) m

/-- The canonical form of a memory. -/
def Memory.wf (m : Memory) : Bool := Memory.wfFrom 0 m

/-- Every listed cell lies below `size`. -/
def Memory.within (size : Nat) (m : Memory) : Bool := m.all fun c => decide (c.1 < size)

/-- The memory that holds a list of bytes from address `k` up. -/
def Memory.ofBytes : Nat → List Byte → Memory
  | _, [] => []
  | k, b :: bs => cell k b ++ Memory.ofBytes (k + 1) bs

namespace Machine

/-! ## Mapper 0 (20_memory.md R71, R75 to R78)

A translation answers the index of the claimed byte, or `none` where it does not claim the address. -/

/-- The program-ROM index of a claimed CPU address (R75). A bank count other than 1 or 2 is refused at
load, so no constructed cartridge has one; it is masked like 2 (log 11). -/
def mapper0PrgIndex (prgBanks : Byte) (a : Word) : Nat :=
  (if prgBanks = 1 then a &&& 0x3FFF else a &&& 0x7FFF).toNat

/-- `cpu_read` (R75). -/
def Mapper.cpuRead : Mapper → Word → Option Nat
  | .mapper0 prgBanks _, a => if 0x8000 ≤ a then some (mapper0PrgIndex prgBanks a) else none

/-- `cpu_write` (R75). -/
def Mapper.cpuWrite : Mapper → Word → Option Nat
  | .mapper0 prgBanks _, a => if 0x8000 ≤ a then some (mapper0PrgIndex prgBanks a) else none

/-- `chr_read` (R76). -/
def Mapper.chrRead : Mapper → BitVec 14 → Option Nat
  | .mapper0 _ _, a => if a ≤ 0x1FFF then some a.toNat else none

/-- `chr_write`: claimed only with zero graphics banks (R77). -/
def Mapper.chrWrite : Mapper → BitVec 14 → Option Nat
  | .mapper0 _ chrBanks, a => if a ≤ 0x1FFF ∧ chrBanks = 0 then some a.toNat else none

/-- `reset()`: mapper 0 has no bank-select state (R78). -/
def Mapper.reset : Mapper → Mapper
  | .mapper0 prgBanks chrBanks => .mapper0 prgBanks chrBanks

/-! ## The cartridge's bytes (R72 to R74) -/

/-- The program bytes; none without a cartridge. -/
def prgBytes (s : State) : Memory := (s.cart.map Cartridge.prg).getD []

/-- The graphics bytes; none without a cartridge. -/
def chrBytes (s : State) : Memory := (s.cart.map Cartridge.chr).getD []

/-- How many graphics bytes a cartridge has (10_state.md R46; 20_memory.md R85). -/
def chrSize (ps : Params) (c : Cartridge) : Nat :=
  if c.chrBanks = 0 then ps.chrRamSize else c.chrBanks.toNat * Config.chrBankSize

/-- How many graphics bytes the machine has; none without a cartridge. -/
def graphicsSize (s : State) : Nat := (s.cart.map (chrSize s.params)).getD 0

/-- A claimed CPU write, under `PRG_WRITE_POLICY` (R73). -/
def writePrg (s : State) (i : Nat) (v : Byte) : State :=
  match s.params.prgWritePolicy with
  | .store => s.setCart (s.cart.map fun c => { c with prg := c.prg.write i v })
  | .discard => s

/-- A claimed video-chip write (R74). -/
def writeChr (s : State) (i : Nat) (v : Byte) : State :=
  s.setCart (s.cart.map fun c => { c with chr := c.chr.write i v })

/-! ## The video address space (60_exceptions.md R262 to R266) -/

/-- What a video address reaches; `absent i` is a claimed graphics byte past the end of the array, which
exists only where `CHR_RAM_SIZE` is smaller than the range mapper 0 claims (R76; log 9). -/
inductive VideoTarget
  | chr (i : Nat) | absent (i : Nat) | nametable (i : Nat) | palette (i : Nat) | unclaimed
  deriving DecidableEq, Repr

/-- The mirroring mode: the cartridge's, or horizontal with none (R265, D42). -/
def mirroring (s : State) : Mirroring := (s.cart.map Cartridge.mirror).getD .horizontal

/-- `NT(a)`: the cell of a nametable address under a mirroring mode (R265). -/
def nametableIndex (mode : Mirroring) (a : BitVec 14) : Nat :=
  let o := a &&& 0x0FFF
  let q := o >>> 10
  let t :=
    match mode with
    | .vertical => (q.getLsbD 0).toNat
    | .horizontal => (q.getLsbD 1).toNat
    | .singleLow => 0
    | .singleHigh => 1
  Config.nametableSize * t + (o &&& 0x03FF).toNat

/-- `PAL(a)`: the palette entry of a video address, with the four aliases (R266). -/
def paletteIndex (a : BitVec 14) : Nat :=
  let i := a &&& 0x1F
  (if i = 0x10 ∨ i = 0x14 ∨ i = 0x18 ∨ i = 0x1C then i - 0x10 else i).toNat

/-- The claim order of R262, given the mapper's answer and the number of graphics bytes. -/
def videoTarget (claim : Option Nat) (size : Nat) (mode : Mirroring) (a : BitVec 14) : VideoTarget :=
  match claim with
  | some i => if i < size then .chr i else .absent i
  | none =>
    if 0x2000 ≤ a ∧ a ≤ 0x3EFF then .nametable (nametableIndex mode a)
    else if 0x3F00 ≤ a then .palette (paletteIndex a)
    else .unclaimed

/-- What a video-chip read of an address reaches (R262). -/
def videoReadTarget (s : State) (a : BitVec 14) : VideoTarget :=
  videoTarget (s.cart.bind fun c => c.mapper.chrRead a) (graphicsSize s) (mirroring s) a

/-- What a video-chip write of an address reaches (R262). -/
def videoWriteTarget (s : State) (a : BitVec 14) : VideoTarget :=
  videoTarget (s.cart.bind fun c => c.mapper.chrWrite a) (graphicsSize s) (mirroring s) a

/-- A palette entry as a read returns it: rounded down to a multiple of 0x10 in grayscale mode (R264). -/
def paletteEntry (vr : VideoRegs) (i : Nat) : Byte :=
  vr.palette.read i &&& (if vr.mask.getLsbD 0 then 0xF0 else 0xFF)

/-- `VideoRead(a)` (R262); a free value past the end of the graphics bytes (log 9). -/
def videoRead (s : State) (a : BitVec 14) : Byte :=
  match videoReadTarget s a with
  | .chr i => (chrBytes s).read i
  | .absent _ => Config.absentByte s.vr.drawn
  | .nametable i => s.vr.nametable.read i
  | .palette i => paletteEntry s.vr i
  | .unclaimed => 0x00

/-- `VideoWrite(a, v)` (R262); past the end of the graphics bytes there is none to store into (log 9). -/
def videoWrite (s : State) (a : BitVec 14) (v : Byte) : State :=
  match videoWriteTarget s a with
  | .chr i => writeChr s i v
  | .absent _ => s
  | .nametable i => s.setVr { s.vr with nametable := s.vr.nametable.write i v }
  | .palette i => s.setVr { s.vr with palette := s.vr.palette.write i v }
  | .unclaimed => s

/-! ## The eight video registers (60_exceptions.md R251 to R261, R267) -/

/-- The video registers, in the order of their numbers (R251). -/
inductive VReg
  | control | mask | status | oamAddress | oamData | scroll | address | data
  deriving DecidableEq, Repr

/-- Register `a & 0x0007` (20_memory.md R65). -/
def VReg.ofAddr (a : Word) : VReg :=
  match (a &&& 0x0007).toNat with
  | 0 => .control
  | 1 => .mask
  | 2 => .status
  | 3 => .oamAddress
  | 4 => .oamData
  | 5 => .scroll
  | 6 => .address
  | _ => .data

/-- The video address a Data access reaches: `vr.vram_addr & 0x3FFF` (R262). -/
def dataAddr (vr : VideoRegs) : BitVec 14 := vr.vramAddr.setWidth 14

/-- `Inc()` (R261). -/
def dataStep (vr : VideoRegs) : Word := if vr.control.getLsbD 2 then 32 else 1

/-- The byte a Status read returns (R257). -/
def statusByte (vr : VideoRegs) : Byte := (vr.status &&& 0xE0) ||| (vr.buffer &&& 0x1F)

/-- The byte a Data read returns: the palette's at once, otherwise the buffered one (R263). -/
def dataByte (s : State) : Byte :=
  if 0x3F00 ≤ dataAddr s.vr then paletteEntry s.vr (paletteIndex (dataAddr s.vr)) else s.vr.buffer

/-- What a Data read leaves in the buffer: the palette's byte, or the byte at the address (R263). -/
def dataRefill (s : State) : Byte :=
  if 0x3F00 ≤ dataAddr s.vr then dataByte s else videoRead s (dataAddr s.vr)

/-- How many free values `VideoRead(a)` draws (log 9). -/
def videoDraws (s : State) (a : BitVec 14) : Nat :=
  match videoReadTarget s a with
  | .absent _ => 1
  | .chr _ | .nametable _ | .palette _ | .unclaimed => 0

/-- A side-effecting read of a video register (R256, R257, R263). -/
def vregRead (s : State) (r : VReg) : Byte × State :=
  match r with
  | .status => (statusByte s.vr, s.setVr { s.vr with status := s.vr.status &&& 0x7F, latch := false })
  | .data =>
    (dataByte s, s.setVr { s.vr with
      buffer := dataRefill s, vramAddr := s.vr.vramAddr + dataStep s.vr
      drawn := s.vr.drawn + videoDraws s (dataAddr s.vr) })
  | .control | .mask | .oamAddress | .oamData | .scroll | .address => (0x00, s)

/-- The VRAM address and the latch after an Address write: high byte first (R258; 90_conflicts.md C1). -/
def addressWrite (vr : VideoRegs) (v : Byte) : VideoRegs :=
  if vr.latch then { vr with vramAddr := word (hiByte vr.vramAddr) v, latch := false }
  else { vr with vramAddr := word v (loByte vr.vramAddr), latch := true }

/-- The VRAM address advanced after a Data access (R260, R261). -/
def advanceData (s : State) : State :=
  s.setVr { s.vr with vramAddr := s.vr.vramAddr + dataStep s.vr }

/-- A write of a video register (R252 to R255, R258, R259). -/
def vregWrite (s : State) (r : VReg) (v : Byte) : State :=
  match r with
  | .control => s.setVr { s.vr with control := v }
  | .mask => s.setVr { s.vr with mask := v }
  | .address => s.setVr (addressWrite s.vr v)
  | .data => advanceData (videoWrite s (dataAddr s.vr) v)
  | .status | .oamAddress | .oamData | .scroll => s

/-- `VRegPeek(r)`: the read-only access (R267). -/
def vregPeek (s : State) (r : VReg) : Byte :=
  match r with
  | .status => statusByte s.vr
  | .data => dataByte s
  | .control | .mask | .oamAddress | .oamData | .scroll | .address => 0x00

/-! ## The Bus (20_memory.md R61 to R67, R70) -/

/-- What a CPU address reaches. -/
inductive CpuTarget
  | prg (i : Nat) | wram (i : Nat) | vreg (r : VReg) | undecoded
  deriving DecidableEq, Repr

/-- The decode order of R61, given the mapper's answer. -/
def cpuTarget (claim : Option Nat) (a : Word) : CpuTarget :=
  match claim with
  | some i => .prg i
  | none =>
    if a ≤ 0x1FFF then .wram (a &&& 0x07FF).toNat
    else if a ≤ 0x3FFF then .vreg (.ofAddr a)
    else .undecoded

/-- What a CPU read of an address reaches (R61). -/
def cpuReadTarget (s : State) (a : Word) : CpuTarget :=
  cpuTarget (s.cart.bind fun c => c.mapper.cpuRead a) a

/-- What a CPU write of an address reaches (R61). -/
def cpuWriteTarget (s : State) (a : Word) : CpuTarget :=
  cpuTarget (s.cart.bind fun c => c.mapper.cpuWrite a) a

/-- `MemRead(a, 1)`: the byte and the state after the read's side effects (R61, R62). -/
def busRead (s : State) (a : Word) : Byte × State :=
  match cpuReadTarget s a with
  | .prg i => ((prgBytes s).read i, s)
  | .wram i => (s.wram.read i, s)
  | .vreg r => vregRead s r
  | .undecoded => (0x00, s)

/-- `MemWrite(a, 1, v)` (R61, R63). -/
def busWrite (s : State) (a : Word) (v : Byte) : State :=
  match cpuWriteTarget s a with
  | .prg i => writePrg s i v
  | .wram i => s.setWram (s.wram.write i v)
  | .vreg r => vregWrite s r v
  | .undecoded => s

/-- `MemPeek(a)`: the read-only bus read (R70). -/
def memPeek (s : State) (a : Word) : Byte :=
  match cpuReadTarget s a with
  | .prg i => (prgBytes s).read i
  | .wram i => s.wram.read i
  | .vreg r => vregPeek s r
  | .undecoded => 0x00

/-- `Read16(a)`: low byte first (R60). -/
def read16 (s : State) (a : Word) : Word × State :=
  let lo := busRead s a
  let hi := busRead lo.2 (a + 1)
  (word hi.1 lo.1, hi.2)

/-! ## The stack (43_stack.md R190, R191) -/

/-- The CPU address of a stack slot (10_state.md R24). -/
def stackAddr (sp : Byte) : Word := 0x0100 + sp.setWidth 16

/-- `Push(v)` (R190). -/
def push (s : State) (v : Byte) : State :=
  let s1 := busWrite s (stackAddr s.sp) v
  s1.setSp (s1.sp - 1)

/-- `Pull()` (R191). -/
def pull (s : State) : Byte × State :=
  let s1 := s.setSp (s.sp + 1)
  busRead s1 (stackAddr s1.sp)

/-- A 16-bit quantity pushed high byte first (60_exceptions.md R245, 44_control_flow.md R210). -/
def pushWord (s : State) (w : Word) : State := push (push s (hiByte w)) (loByte w)

/-- A 16-bit quantity pulled low byte first (44_control_flow.md R211, 45_flags_system.md R229). -/
def pullWord (s : State) : Word × State :=
  let lo := pull s
  let hi := pull lo.2
  (word hi.1 lo.1, hi.2)

/-! ## Taking an interrupt, and returning from one -/

/-- The entry sequence BRK, IRQ and NMI share: `PC` and then the byte `stacked` are pushed, `P` becomes
`live`, and `PC` is read from the vector (60_exceptions.md R245; 45_flags_system.md R227). -/
def takeInterrupt (s : State) (vector : Word) (stacked live : Byte) : State :=
  let s1 := push (pushWord s s.pc) stacked
  let v := read16 (s1.setP live) vector
  v.2.setPc v.1

/-- `Enter(vector)` of IRQ and NMI: the stacked byte has B = 0 and U = 1 and the old I (R245). -/
def enter (s : State) (vector : Word) : State :=
  let p := setFlag .u true (setFlag .b false s.p)
  takeInterrupt s vector p (setFlag .i true p)

/-- `NmiEntry()` (R243). -/
def nmiEntry (s : State) : State :=
  let s1 := s.setNmiPending false
  (enter s1 s1.params.nmiVector).setCycles 8

/-- `IrqEntry()` (R244). -/
def irqEntry (s : State) : State := (enter s Config.irqVector).setCycles 7

/-- The return from an interrupt: `P`, then `PC`, from the stack (45_flags_system.md R229). -/
def returnFromInterrupt (s : State) : State :=
  let v := pull s
  let w := pullWord (v.2.setP (pulledFlags v.1))
  w.2.setPc w.1

/-! ## Reset (70_reset_and_hazards.md R300 to R303) -/

/-- The video-register fields after reset; the nametables and the palette survive (R300, R301). -/
def resetVideo (vr : VideoRegs) : VideoRegs :=
  { vr with control := 0x00, mask := 0x00, status := 0x00, latch := false, vramAddr := 0x0000, buffer := 0x00 }

/-- `Bus.Reset()`, in the order of R300. -/
def busReset (s : State) : State :=
  let s1 := s.setCart (s.cart.map fun c => { c with mapper := c.mapper.reset })
  let s2 := (s1.setPulseCount 0).setVr (resetVideo s1.vr)
  let s3 := ((((s2.setA 0x00).setX 0x00).setY 0x00).setSp 0xFD).setP 0x20
  let v := read16 (s3.setNmiPending false) Config.resetVector
  ((v.2.setPc v.1).setCycles 8).setWasReset true

/-- Power-on with parameters `ps` (10_state.md R50; 70_reset_and_hazards.md R302): the memories hold
`INIT_MEMORY`, no cartridge is inserted, and every register is unspecified, so it keeps whatever the
argument `s` holds. -/
def powerOn (ps : Params) (s : State) : State :=
  { s with
    vr := { s.vr with nametable := ps.init.nametable, palette := ps.init.palette }
    wram := ps.init.wram, cart := none, params := ps, wasReset := false, schedule := [] }

end Machine
end Sys2Proof
end

