-- ==== Sys2Proof/Machine/Cartridge.lean ====
section
/-! DEFINITION. The cartridge image, its construction and its insertion (20_memory.md R79, R84 to R87). -/

namespace Sys2Proof.Machine

/-- The registry lookup: mapper 0 is the only mapper (R79). -/
def mapperFor (id prgBanks chrBanks : Byte) : Option Mapper :=
  if id = 0 then some (.mapper0 prgBanks chrBanks) else none

/-- The mapper id of header bytes 6 and 7 (R84). -/
def headerMapperId (byte6 byte7 : Byte) : Byte := byte7.extractLsb' 4 4 ++ byte6.extractLsb' 4 4

/-- The mirroring mode of header byte 6 (R86). -/
def headerMirror (byte6 : Byte) : Mirroring := if byte6.getLsbD 0 then .vertical else .horizontal

/-- Where the program data starts: after the header, and the trainer when byte 6 bit 2 says there is one
(R84, R85, D43). -/
def dataStart (byte6 : Byte) : Nat := if byte6.getLsbD 2 then 16 + 512 else 16

/-- Cartridge construction from an image file, `none` when the file is missing (R85). With zero graphics
banks the graphics RAM has `CHR_RAM_SIZE` bytes, whatever that is (`chrSize`). Where several load errors
hold, the first of this order is reported; bytes after the declared data are ignored (log 10). -/
def construct (ps : Params) : Option (List Byte) → Except LoadError Cartridge
  | none => .error .missingFile
  | some image =>
    let h := fun k => image.getD k 0
    let prgBanks := h 4
    let chrBanks := h 5
    let data := image.drop (dataStart (h 6))
    let prgLen := prgBanks.toNat * Config.prgBankSize
    let chrLen := chrBanks.toNat * Config.chrBankSize
    let id := headerMapperId (h 6) (h 7)
    if image.length < 16 then .error .shortHeader
    else match mapperFor id prgBanks chrBanks with
    | none => .error (.unsupportedMapper id)
    | some mapper =>
      if prgBanks ≠ 1 ∧ prgBanks ≠ 2 then .error (.badPrgBanks prgBanks)
      else if data.length < prgLen + chrLen then .error .shortData
      else .ok {
        prg := Memory.ofBytes 0 (data.take prgLen)
        chr := if chrBanks = 0 then ps.init.chrRam else Memory.ofBytes 0 ((data.drop prgLen).take chrLen)
        prgBanks := prgBanks
        chrBanks := chrBanks
        mapperId := id
        mirror := headerMirror (h 6)
        mapper := mapper }

/-- Construction and insertion. A load error inserts nothing; insertion changes no CPU state (R85, R87). A
second insertion is refused (log 8). -/
def insertCartridge (image : Option (List Byte)) (s : State) : Host.Outcome State Fault Refusal :=
  match s.cart with
  | some _ => .refused .secondInsertion
  | none =>
    match construct s.params image with
    | .ok c => .next (s.setCart (some c))
    | .error e => .fault (.loadError e)

end Sys2Proof.Machine
end

