-- ==== Sys2Proof/Machine/Operands.lean ====
section
/-! DEFINITION. The twelve addressing modes, the operand fetch and the write-back (30_encoding.md R101 to
R115), in a state whose `PC` already points past the instruction's bytes. -/

namespace Sys2Proof.Machine

/-- The page-cross flag: an address on another page than the one it was formed from (R107, R108, R111). -/
def crosses (ea base : Word) : Bool := hiByte ea != hiByte base

/-- The pointer at zero-page address `t`, low byte first; its second byte wraps within the zero page
(R110, R111). -/
def zeroPagePointer (s : State) (t : Byte) : Word × State :=
  let lo := busRead s (t.setWidth 16)
  let hi := busRead lo.2 ((t + 1).setWidth 16)
  (word hi.1 lo.1, hi.2)

/-- The second address of an indirect pointer: the start of the same page when the pointer's low byte is
0xFF (R109). -/
def pointerHighAddr (ptr : Word) : Word :=
  if loByte ptr = 0xFF then word (hiByte ptr) 0x00 else ptr + 1

/-- `Resolve(mode)`: `m_extra`, and the state with `ea`, `rel` or `fetched` set (R101 to R112). -/
def resolve (m : Mode) (s : State) : Bool × State :=
  match m with
  | .imp => (false, s.setFetched s.a)
  | .imm _ => (false, s.setEa (s.pc - 1))
  | .zp0 b1 => (false, s.setEa (b1.setWidth 16))
  | .zpx b1 => (false, s.setEa ((b1 + s.x).setWidth 16))
  | .zpy b1 => (false, s.setEa ((b1 + s.y).setWidth 16))
  | .abs w => (false, s.setEa w)
  | .abx w =>
    let ea := w + s.x.setWidth 16
    (crosses ea w, s.setEa ea)
  | .aby w =>
    let ea := w + s.y.setWidth 16
    (crosses ea w, s.setEa ea)
  | .ind ptr =>
    let lo := busRead s ptr
    let hi := busRead lo.2 (pointerHighAddr ptr)
    (false, hi.2.setEa (word hi.1 lo.1))
  | .izx b1 =>
    let r := zeroPagePointer s (b1 + s.x)
    (false, r.2.setEa r.1)
  | .izy b1 =>
    let r := zeroPagePointer s b1
    let ea := r.1 + r.2.y.setWidth 16
    (crosses ea r.1, r.2.setEa ea)
  | .rel b1 => (false, s.setRel (b1.signExtend 16))

/-- `Operand()`: `A` in IMP, otherwise one bus read at `ea` (R113). An immediate's byte was read with the
instruction's other bytes, at the address `ea` names (R102; log 12). -/
def operand (m : Mode) (s : State) : Byte × State :=
  match m with
  | .imp => (s.fetched, s)
  | .imm b1 => (b1, s.setFetched b1)
  | .zp0 _ | .zpx _ | .zpy _ | .abs _ | .abx _ | .aby _ | .ind _ | .izx _ | .izy _ | .rel _ =>
    let r := busRead s s.ea
    (r.1, r.2.setFetched r.1)

/-- `WriteBack(v)`: to `A` in IMP, otherwise one bus write at `ea` (R114). -/
def writeBack (m : Mode) (v : Byte) (s : State) : State :=
  match m with
  | .imp => s.setA v
  | .imm _ | .zp0 _ | .zpx _ | .zpy _ | .abs _ | .abx _ | .aby _ | .ind _ | .izx _ | .izy _ | .rel _ =>
    busWrite s s.ea v

/-- The frame of R116 around a mnemonic's operate step: the mode is resolved, the step runs, and the
instruction costs one more cycle when both `m_extra` and `o_extra` are 1. -/
def withMode (m : Mode) (oExtra : Bool) (operate : State → State) (s : State) : State :=
  let r := resolve m s
  let t := operate r.2
  t.setCycles (t.cycles + (r.1 && oExtra).toNat)

/-- An operate step that reads its operand (R113). -/
def withOperand (m : Mode) (f : Byte → State → State) (s : State) : State :=
  let r := operand m s
  f r.1 r.2

end Sys2Proof.Machine
end

