-- ==== Sys2Proof/Machine/Arith.lean ====
section
/-! DEFINITION. Arithmetic and logical instructions (40_arith_logic.md). -/

namespace Sys2Proof.Machine

/-- What a meaning answers. -/
abbrev Result := Host.Outcome State Fault Refusal

/-- An instruction that combines `A` with its operand into `A` and the flags (R140 to R144). -/
def accumulate (m : Mode) (result flags : Byte → Byte → Byte → Byte) (s : State) : State :=
  withMode m true (withOperand m fun v s => (s.setA (result s.a v s.p)).setP (flags s.a v s.p)) s

/-- A bitwise instruction: the result into `A`, Z and N from it (R142 to R144). -/
def logical (m : Mode) (f : Byte → Byte → Byte) (s : State) : State :=
  accumulate m (fun a v _ => f a v) (fun a v p => setZN (f a v) p) s

/-- ADC (R140). -/
def execAdc (m : Mode) (s : State) : Result := .next (accumulate m adcResult adcFlags s)

/-- SBC (R141). -/
def execSbc (m : Mode) (s : State) : Result := .next (accumulate m sbcResult sbcFlags s)

/-- AND (R142). -/
def execAnd (m : Mode) (s : State) : Result := .next (logical m (· &&& ·) s)

/-- ORA (R143). -/
def execOra (m : Mode) (s : State) : Result := .next (logical m (· ||| ·) s)

/-- EOR (R144). -/
def execEor (m : Mode) (s : State) : Result := .next (logical m (· ^^^ ·) s)

/-- BIT: `A` is unchanged (R145). -/
def execBit (m : Mode) (s : State) : Result :=
  .next (withMode m false (withOperand m fun v s => s.setP (bitFlags s.a v s.p)) s)

end Sys2Proof.Machine
end

