-- ==== Sys2Proof/Machine/Control.lean ====
section
/-! DEFINITION. Jumps, branches, subroutine call and return (44_control_flow.md). `PC` is already the
address of the byte after the instruction. -/

namespace Sys2Proof.Machine

/-- `Branch(cond)`: taken, one cycle more, and a second one when the target is on another page (R201). -/
def branch (cond : Bool) (s : State) : State :=
  if cond then
    let target := s.pc + s.rel
    (s.setCycles (s.cycles + 1 + (crosses target s.pc).toNat)).setPc target
  else s

/-- A branch on a flag: taken when the flag has the value `want` (R201; 90_conflicts.md C7). -/
def branchOn (f : Flag) (want : Bool) (disp : Byte) (s : State) : State :=
  withMode (.rel disp) false (fun s => branch (flag f s.p == want) s) s

/-- JMP (R200). -/
def execJmp (m : Mode) (s : State) : Result := .next (withMode m false (fun s => s.setPc s.ea) s)

/-- BPL (R202). -/
def execBpl (disp : Byte) (s : State) : Result := .next (branchOn .n false disp s)

/-- BMI (R203). -/
def execBmi (disp : Byte) (s : State) : Result := .next (branchOn .n true disp s)

/-- BVC (R204). -/
def execBvc (disp : Byte) (s : State) : Result := .next (branchOn .v false disp s)

/-- BVS (R205). -/
def execBvs (disp : Byte) (s : State) : Result := .next (branchOn .v true disp s)

/-- BCC (R206). -/
def execBcc (disp : Byte) (s : State) : Result := .next (branchOn .c false disp s)

/-- BCS (R207). -/
def execBcs (disp : Byte) (s : State) : Result := .next (branchOn .c true disp s)

/-- BNE (R208). -/
def execBne (disp : Byte) (s : State) : Result := .next (branchOn .z false disp s)

/-- BEQ (R209). -/
def execBeq (disp : Byte) (s : State) : Result := .next (branchOn .z true disp s)

/-- JSR: the address of its last byte is pushed (R210). -/
def execJsr (addr : Word) (s : State) : Result :=
  .next (withMode (.abs addr) false (fun s => (pushWord s (s.pc - 1)).setPc s.ea) s)

/-- RTS: the pulled address plus 1 (R211). -/
def execRts (s : State) : Result :=
  .next (withMode .imp false (fun s => (pullWord s).2.setPc ((pullWord s).1 + 1)) s)

end Sys2Proof.Machine
end

