-- ==== Sys2Proof/Machine/Shift.lean ====
section
/-! DEFINITION. Shift, rotate, compare, increment and decrement instructions
(41_shift_compare_incdec.md). -/

namespace Sys2Proof.Machine

/-- A read-modify-write instruction: one read of the operand, one write of the result, then the flags,
both computed from the operand and `P` (R150 to R153, R160, R161; 70_reset_and_hazards.md R315). -/
def modify (m : Mode) (result flags : Byte → Byte → Byte) (s : State) : State :=
  withMode m false (withOperand m fun v s => (writeBack m (result v s.p) s).setP (flags v s.p)) s

/-- A compare of the register `reg` with the operand; the register is not changed (R155 to R157). -/
def compareReg (m : Mode) (oExtra : Bool) (reg : State → Byte) (s : State) : State :=
  withMode m oExtra (withOperand m fun v s => s.setP (compareFlags (reg s) v s.p)) s

/-- ASL (R150). -/
def execAsl (m : Mode) (s : State) : Result :=
  .next (modify m (fun v _ => aslResult v) (fun v p => shiftFlags (v.getLsbD 7) (aslResult v) p) s)

/-- LSR (R151). -/
def execLsr (m : Mode) (s : State) : Result :=
  .next (modify m (fun v _ => lsrResult v) (fun v p => shiftFlags (v.getLsbD 0) (lsrResult v) p) s)

/-- ROL (R152). -/
def execRol (m : Mode) (s : State) : Result :=
  .next (modify m rolResult (fun v p => shiftFlags (v.getLsbD 7) (rolResult v p) p) s)

/-- ROR (R153). -/
def execRor (m : Mode) (s : State) : Result :=
  .next (modify m rorResult (fun v p => shiftFlags (v.getLsbD 0) (rorResult v p) p) s)

/-- CMP (R155). -/
def execCmp (m : Mode) (s : State) : Result := .next (compareReg m true State.a s)

/-- CPX (R156). -/
def execCpx (m : Mode) (s : State) : Result := .next (compareReg m false State.x s)

/-- CPY (R157). -/
def execCpy (m : Mode) (s : State) : Result := .next (compareReg m false State.y s)

/-- INC (R160). -/
def execInc (m : Mode) (s : State) : Result :=
  .next (modify m (fun v _ => v + 1) (fun v p => setZN (v + 1) p) s)

/-- DEC (R161). -/
def execDec (m : Mode) (s : State) : Result :=
  .next (modify m (fun v _ => v - 1) (fun v p => setZN (v - 1) p) s)

/-- INX (R162). -/
def execInx (s : State) : Result :=
  .next (withMode .imp false (fun s => (s.setX (s.x + 1)).setP (setZN (s.x + 1) s.p)) s)

/-- INY (R163). -/
def execIny (s : State) : Result :=
  .next (withMode .imp false (fun s => (s.setY (s.y + 1)).setP (setZN (s.y + 1) s.p)) s)

/-- DEX (R164). -/
def execDex (s : State) : Result :=
  .next (withMode .imp false (fun s => (s.setX (s.x - 1)).setP (setZN (s.x - 1) s.p)) s)

/-- DEY (R165). -/
def execDey (s : State) : Result :=
  .next (withMode .imp false (fun s => (s.setY (s.y - 1)).setP (setZN (s.y - 1) s.p)) s)

end Sys2Proof.Machine
end

