-- ==== Sys2Proof/Machine/Stack.lean ====
section
/-! DEFINITION. Stack instructions (43_stack.md). -/

namespace Sys2Proof.Machine

/-- PHP: the live `P` is unchanged (R192). -/
def execPhp (s : State) : Result :=
  .next (withMode .imp false (fun s => push s (pushedFlags s.p)) s)

/-- PLP (R193). -/
def execPlp (s : State) : Result :=
  .next (withMode .imp false (fun s => (pull s).2.setP (pulledFlags (pull s).1)) s)

/-- PHA (R194). -/
def execPha (s : State) : Result := .next (withMode .imp false (fun s => push s s.a) s)

/-- PLA (R195). -/
def execPla (s : State) : Result :=
  .next (withMode .imp false
    (fun s => ((pull s).2.setA (pull s).1).setP (setZN (pull s).1 (pull s).2.p)) s)

end Sys2Proof.Machine
end

