-- ==== Sys2Proof/Machine/System.lean ====
section
/-! DEFINITION. Flag instructions, BRK, RTI, NOP and the placeholder (45_flags_system.md). -/

namespace Sys2Proof.Machine

/-- An instruction that writes one flag and nothing else (R220 to R226). -/
def writeFlag (f : Flag) (v : Bool) (s : State) : State :=
  withMode .imp false (fun s => s.setP (setFlag f v s.p)) s

/-- CLC (R220). -/
def execClc (s : State) : Result := .next (writeFlag .c false s)

/-- SEC (R221). -/
def execSec (s : State) : Result := .next (writeFlag .c true s)

/-- CLI (R222). -/
def execCli (s : State) : Result := .next (writeFlag .i false s)

/-- SEI (R223). -/
def execSei (s : State) : Result := .next (writeFlag .i true s)

/-- CLD (R224). -/
def execCld (s : State) : Result := .next (writeFlag .d false s)

/-- SED (R225). -/
def execSed (s : State) : Result := .next (writeFlag .d true s)

/-- CLV (R226). -/
def execClv (s : State) : Result := .next (writeFlag .v false s)

/-- BRK: the padding byte is skipped, the stacked byte has B = 1 and the old I (R227). -/
def execBrk (s : State) : Result :=
  .next (withMode .imp false
    (fun s => takeInterrupt (s.setPc (s.pc + 1)) Config.irqVector
      (setFlag .b true s.p) (setFlag .i true (setFlag .b false s.p))) s)

/-- RTI (R229). -/
def execRti (s : State) : Result := .next (withMode .imp false returnFromInterrupt s)

/-- NOP: nothing beyond the fetch (R228). -/
def execNop (s : State) : Result := .next (withMode .imp false id s)

/-- `???`: nothing beyond the fetch, or a model-level fault that names the opcode and its address, as
`ILLEGAL_OPCODE_POLICY` says (R231, R232). -/
def execUnofficial (op : Byte) (s : State) : Result :=
  match s.params.illegalPolicy with
  | .nop => .next (withMode .imp false id s)
  | .fault => .fault (.illegalOpcode op (s.pc - 1))

end Sys2Proof.Machine
end

