-- ==== Sys2Proof/Machine/Transfer.lean ====
section
/-! DEFINITION. Load, store and register-transfer instructions (42_load_store_transfer.md). -/

namespace Sys2Proof.Machine

/-- A load: the operand into a register, Z and N from it (R170 to R172). -/
def load (m : Mode) (setReg : State → Byte → State) (s : State) : State :=
  withMode m true (withOperand m fun v s => (setReg s v).setP (setZN v s.p)) s

/-- A store: one bus write at `ea`, which is not read; no flag (R173 to R175). -/
def store (m : Mode) (reg : State → Byte) (s : State) : State :=
  withMode m false (fun s => busWrite s s.ea (reg s)) s

/-- A transfer that sets Z and N from the byte moved (R180 to R184). -/
def transfer (reg : State → Byte) (setReg : State → Byte → State) (s : State) : State :=
  withMode .imp false (fun s => (setReg s (reg s)).setP (setZN (reg s) s.p)) s

/-- LDA (R170). -/
def execLda (m : Mode) (s : State) : Result := .next (load m State.setA s)

/-- LDX (R171). -/
def execLdx (m : Mode) (s : State) : Result := .next (load m State.setX s)

/-- LDY (R172). -/
def execLdy (m : Mode) (s : State) : Result := .next (load m State.setY s)

/-- STA (R173). -/
def execSta (m : Mode) (s : State) : Result := .next (store m State.a s)

/-- STX (R174). -/
def execStx (m : Mode) (s : State) : Result := .next (store m State.x s)

/-- STY (R175). -/
def execSty (m : Mode) (s : State) : Result := .next (store m State.y s)

/-- TAX (R180). -/
def execTax (s : State) : Result := .next (transfer State.a State.setX s)

/-- TAY (R181). -/
def execTay (s : State) : Result := .next (transfer State.a State.setY s)

/-- TXA (R182). -/
def execTxa (s : State) : Result := .next (transfer State.x State.setA s)

/-- TYA (R183). -/
def execTya (s : State) : Result := .next (transfer State.y State.setA s)

/-- TSX (R184). -/
def execTsx (s : State) : Result := .next (transfer State.sp State.setX s)

/-- TXS: the one transfer that writes no flag (R185). -/
def execTxs (s : State) : Result := .next (withMode .imp false (fun s => s.setSp s.x) s)

end Sys2Proof.Machine
end

