-- ==== Sys2Proof/Machine/Fetch.lean ====
section
/-! DEFINITION. Fetching an instruction (30_encoding.md R116; 20_memory.md R82). -/

namespace Sys2Proof.Machine

/-- One byte of the instruction stream: a bus read at `PC`, which advances (10_state.md R31). -/
def fetchByte (s : State) : Byte × State :=
  let r := busRead s s.pc
  (r.1, r.2.setPc (r.2.pc + 1))

/-- The opcode fetch: `opcode`, `P.U <- 1`, `cycles <- base` (R116). -/
def fetchOpcode (s : State) : State :=
  let r := fetchByte s
  ((r.2.setOpcode r.1).setP (setFlag .u true r.2.p)).setCycles (rowOf r.1).base

/-- The whole instruction at `PC`, read byte by byte, each with its side effects, in stream order (R116,
70_reset_and_hazards.md R315), and the state in which it executes. -/
def fetchInstr (s : State) : Instr × State :=
  let s0 := fetchOpcode s
  match (rowOf s0.opcode).tag.operands with
  | 0 => (.ofBytes s0.opcode 0 0, s0)
  | 1 =>
    let r1 := fetchByte s0
    (.ofBytes s0.opcode r1.1 0, r1.2)
  | _ =>
    let r1 := fetchByte s0
    let r2 := fetchByte r1.2
    (.ofBytes s0.opcode r1.1 r2.1, r2.2)

/-! ## Placing an instruction where the next fetch finds it -/

/-- Whether a CPU address is backed by memory that `place` can change: work RAM or claimed program
bytes. -/
def placeable (s : State) (a : Word) : Bool :=
  match cpuReadTarget s a with
  | .prg _ | .wram _ => true
  | .vreg _ | .undecoded => false

/-- The state with byte `v` in the memory behind CPU address `a`, whatever the write policy says. -/
def place (s : State) (a : Word) (v : Byte) : State :=
  match cpuReadTarget s a with
  | .prg i => s.setCart (s.cart.map fun c => { c with prg := c.prg.write i v })
  | .wram i => s.setWram (s.wram.write i v)
  | .vreg _ | .undecoded => s

/-- The state with a list of bytes from CPU address `a` up. -/
def placeBytes (s : State) : Word → List Byte → State
  | _, [] => s
  | a, v :: vs => placeBytes (place s a v) (a + 1) vs

/-- A state whose next step is an instruction boundary that fetches: the divider is on a CPU clock, no
cycles remain, no interrupt or host action is due. `PC` moves to 0x0000 only if the memory at `PC` cannot
hold an instruction (log 14). -/
def readyToFetch (s : State) : State :=
  let s1 := (((s.setCycles 0).setPulseCount 0).setNmiPending false).setIrqLine false
  let s2 := (s1.setWasReset true).setSchedule []
  if placeable s s.pc ∧ placeable s (s.pc + 1) ∧ placeable s (s.pc + 2) then s2 else s2.setPc 0x0000

end Sys2Proof.Machine
end

