-- ==== Sys2Proof/Machine/Clock.lean ====
section
/-! DEFINITION. The instruction boundary, the CPU clock, the master pulse, and the host's and the
environment's actions. -/

namespace Sys2Proof.Machine

/-- A result with a further update of its next state. -/
def afterNext (f : State → State) : Result → Result
  | .next s => .next (f s)
  | .fault e => .fault e
  | .refused e => .refused e

/-- `ExecuteInstruction()` (30_encoding.md R116). -/
def executeInstruction (s : State) : Result := exec (fetchInstr s).1 (fetchInstr s).2

/-- `Boundary()`: a pending NMI, then an unmasked IRQ, then the instruction at `PC` (60_exceptions.md
R242). -/
def boundary (s : State) : Result :=
  if s.nmiPending then .next (nmiEntry s)
  else if s.irqLine && !flag .i s.p then .next (irqEntry s)
  else executeInstruction s

/-- `CpuClock()`: the counter is decremented on every clock, the starting one included
(70_reset_and_hazards.md R310; 90_conflicts.md C3). -/
def cpuClock (s : State) : Result :=
  afterNext (fun t => t.setCycles (t.cycles - 1)) (if s.cycles = 0 then boundary s else .next s)

/-- `Pulse()`: the CPU clocks on every third pulse; the video step changes nothing in scope
(60_exceptions.md R270). Before the first reset a pulse has no defined effect (10_state.md R50). -/
def pulse (s : State) : Result :=
  if s.wasReset then
    afterNext (fun t => t.setPulseCount (t.pulseCount + 1))
      (if s.pulseCount % Config.clockRatio = 0 then cpuClock s else .next s)
  else .refused .pulseBeforeReset

/-- `status_event(s)`: `vr.status[7:5] <- s` (60_exceptions.md R268). -/
def statusEvent (bits : BitVec 3) (s : State) : State :=
  s.setVr { s.vr with status := bits ++ s.vr.status.extractLsb' 0 5 }

/-- One atomic entry of the total order (60_exceptions.md R271; 70_reset_and_hazards.md R318). -/
def perform (act : HostAction) (s : State) : Result :=
  match act with
  | .pulse => pulse s
  | .reset => .next (busReset s)
  | .insert image => insertCartridge image s
  | .debugRead addr => .next (busRead s addr).2
  | .nmiRequest => .next (s.setNmiPending true)
  | .irqLine level => .next (s.setIrqLine level)
  | .statusEvent bits => .next (statusEvent bits s)

end Sys2Proof.Machine
end

