-- ==== Sys2Proof/Machine/Step.lean ====
section
/-! DEFINITION. One step of the machine, and a state whose next step runs a given instruction. -/

namespace Sys2Proof.Machine

/-- One step: the oldest scheduled host action or environment event, or a master pulse when none is
scheduled (70_reset_and_hazards.md R318; log 2). -/
def step (s : State) : Host.Outcome State Fault Refusal :=
  match s.schedule with
  | [] => pulse s
  | act :: rest => perform act (s.setSchedule rest)

/-- `s` with the instruction whose table bits are `w` placed where the next step fetches it (log 3,
log 14). -/
def State.withFetchWord (s : State) (nbits w : Nat) : State :=
  placeBytes (readyToFetch s) (readyToFetch s).pc (tableBytes nbits w)

end Sys2Proof.Machine
end

