-- ==== Sys2Proof/Machine/Debug.lean ====
section
/-! DEFINITION. The host's read-only observations: the register snapshot (60_exceptions.md R272) and the
disassembler (30_encoding.md R121 to R123). The read-only memory peek is `memPeek` of Machine/Ops.lean. -/

namespace Sys2Proof.Machine

/-- What a register snapshot returns (R271, R272). -/
structure Snapshot where
  a : Byte
  x : Byte
  y : Byte
  sp : Byte
  pc : Word
  p : Byte
  deriving DecidableEq, Repr

/-- The register snapshot (R272). -/
def snapshot (s : State) : Snapshot :=
  { a := s.a, x := s.x, y := s.y, sp := s.sp, pc := s.pc, p := s.p }

/-- A line of text, character by character. -/
abbrev Line := List Char

/-- An upper-case hexadecimal digit (R121). -/
def hexDigit (d : BitVec 4) : Char := Char.ofNat (if d.toNat < 10 then 48 + d.toNat else 55 + d.toNat)

/-- `XX`: two hexadecimal digits (R122). -/
def hex2 (b : Byte) : Line := [hexDigit (b.extractLsb' 4 4), hexDigit (b.extractLsb' 0 4)]

/-- `XXXX`: four hexadecimal digits (R121, R122). -/
def hex4 (w : Word) : Line := hex2 (hiByte w) ++ hex2 (loByte w)

/-- The mnemonic's letters (R121; `???` for the placeholder, R119). -/
def Mnem.text : Mnem → Line
  | .adc => "ADC".toList
  | .sbc => "SBC".toList
  | .and => "AND".toList
  | .ora => "ORA".toList
  | .eor => "EOR".toList
  | .bit => "BIT".toList
  | .asl => "ASL".toList
  | .lsr => "LSR".toList
  | .rol => "ROL".toList
  | .ror => "ROR".toList
  | .cmp => "CMP".toList
  | .cpx => "CPX".toList
  | .cpy => "CPY".toList
  | .inc => "INC".toList
  | .dec => "DEC".toList
  | .inx => "INX".toList
  | .iny => "INY".toList
  | .dex => "DEX".toList
  | .dey => "DEY".toList
  | .lda => "LDA".toList
  | .ldx => "LDX".toList
  | .ldy => "LDY".toList
  | .sta => "STA".toList
  | .stx => "STX".toList
  | .sty => "STY".toList
  | .tax => "TAX".toList
  | .tay => "TAY".toList
  | .txa => "TXA".toList
  | .tya => "TYA".toList
  | .tsx => "TSX".toList
  | .txs => "TXS".toList
  | .php => "PHP".toList
  | .plp => "PLP".toList
  | .pha => "PHA".toList
  | .pla => "PLA".toList
  | .jmp => "JMP".toList
  | .bpl => "BPL".toList
  | .bmi => "BMI".toList
  | .bvc => "BVC".toList
  | .bvs => "BVS".toList
  | .bcc => "BCC".toList
  | .bcs => "BCS".toList
  | .bne => "BNE".toList
  | .beq => "BEQ".toList
  | .jsr => "JSR".toList
  | .rts => "RTS".toList
  | .clc => "CLC".toList
  | .sec => "SEC".toList
  | .cli => "CLI".toList
  | .sei => "SEI".toList
  | .cld => "CLD".toList
  | .sed => "SED".toList
  | .clv => "CLV".toList
  | .brk => "BRK".toList
  | .rti => "RTI".toList
  | .nop => "NOP".toList
  | .unofficial => "???".toList

/-- The letters of a mode tag (R100, R121). -/
def ModeTag.text : ModeTag → Line
  | .imp => "IMP".toList
  | .imm => "IMM".toList
  | .zp0 => "ZP0".toList
  | .zpx => "ZPX".toList
  | .zpy => "ZPY".toList
  | .abs => "ABS".toList
  | .abx => "ABX".toList
  | .aby => "ABY".toList
  | .ind => "IND".toList
  | .izx => "IZX".toList
  | .izy => "IZY".toList
  | .rel => "REL".toList

/-- The operand text of a mode of an instruction at `a` (R122); none in IMP. -/
def operandText (a : Word) : Mode → Line
  | .imp => []
  | .imm b => "#$".toList ++ hex2 b
  | .zp0 b => "$".toList ++ hex2 b
  | .zpx b => "$".toList ++ hex2 b ++ ", X".toList
  | .zpy b => "$".toList ++ hex2 b ++ ", Y".toList
  | .abs w => "$".toList ++ hex4 w
  | .abx w => "$".toList ++ hex4 w ++ ", X".toList
  | .aby w => "$".toList ++ hex4 w ++ ", Y".toList
  | .ind w => "($".toList ++ hex4 w ++ ")".toList
  | .izx b => "($".toList ++ hex2 b ++ ", X)".toList
  | .izy b => "($".toList ++ hex2 b ++ "), Y".toList
  | .rel b => "$".toList ++ hex2 b ++ " [$".toList ++ hex4 (a + 2 + b.signExtend 16) ++ "]".toList

/-- The operand tokens with the space after them; nothing in IMP, so that single spaces separate the
tokens (R121). -/
def operandField (a : Word) (m : Mode) : Line :=
  match m with
  | .imp => []
  | m => operandText a m ++ " ".toList

/-- One line of the grammar: address, mnemonic, operand, and the mode tag in braces (R121). -/
def lineText (a : Word) (n : Mnem) (m : Mode) : Line :=
  "$".toList ++ hex4 a ++ ": ".toList ++ Mnem.text n ++ " ".toList ++ operandField a m ++
    [Char.ofNat 0x7B] ++ ModeTag.text m.tag ++ [Char.ofNat 0x7D]

/-- The line of the instruction at `a`, read with `MemPeek` only (R123). -/
def lineAt (s : State) (a : Word) : Line :=
  let r := rowOf (memPeek s a)
  lineText a r.mnem (.ofBytes r.tag (memPeek s (a + 1)) (memPeek s (a + 2)))

/-- The loop of R123 from an unbounded cursor, for at most `fuel` instructions. -/
def disassembleFrom (s : State) (stop : Nat) : Nat → Nat → List (Word × Line)
  | 0, _ => []
  | fuel + 1, cursor =>
    if cursor ≤ stop then
      let a := BitVec.ofNat 16 cursor
      (a, lineAt s a) :: disassembleFrom s stop fuel (cursor + 1 + (rowOf (memPeek s a)).tag.operands)
    else []

/-- `Disassemble(start, stop)`: the map from instruction-start address to line, as a list of pairs in
the order they are read (R123; log 15). Every instruction is at least one byte long, so the fuel never
runs out. -/
def disassemble (s : State) (start stop : Nat) : List (Word × Line) :=
  disassembleFrom s stop (stop + 1 - start) start

end Sys2Proof.Machine
end

