-- ==== Sys2Proof/Safety.lean ====
section
/-! DEFINITION. The terms claims are stated in: well-formed data, the invariant every step keeps, and the
states that are at an instruction boundary. -/

namespace Sys2Proof.Machine

/-- The power-on contents fit their memories and are in canonical form. -/
structure ParamsWf (ps : Params) : Prop where
  wram : ps.init.wram.wf ∧ ps.init.wram.within Config.wramSize
  nametable : ps.init.nametable.wf ∧ ps.init.nametable.within (2 * Config.nametableSize)
  palette : ps.init.palette.wf ∧ ps.init.palette.within Config.paletteSize
  chrRam : ps.init.chrRam.wf ∧ ps.init.chrRam.within ps.chrRamSize

/-- A cartridge as construction leaves it (10_state.md R46, R47; 20_memory.md R75, R85): one or two
program banks, bytes that fit the declared banks or `CHR_RAM_SIZE`, and mapper 0 with copies of the bank
counts. -/
structure CartridgeWf (ps : Params) (c : Cartridge) : Prop where
  prgBanks : c.prgBanks = 1 ∨ c.prgBanks = 2
  prg : c.prg.wf ∧ c.prg.within (c.prgBanks.toNat * Config.prgBankSize)
  chr : c.chr.wf ∧ c.chr.within (chrSize ps c)
  mapperId : c.mapperId = 0
  mapper : c.mapper = .mapper0 c.prgBanks c.chrBanks

/-- The invariant: every memory is in canonical form and within its size, the cartridge is as constructed,
and, once a reset has happened, `P.U` is 1, `P.B` is 0 (10_state.md R26, R27) and Status bits 4 to 0 are 0
(R39). -/
structure Inv (s : State) : Prop where
  params : ParamsWf s.params
  wram : s.wram.wf ∧ s.wram.within Config.wramSize
  nametable : s.vr.nametable.wf ∧ s.vr.nametable.within (2 * Config.nametableSize)
  palette : s.vr.palette.wf ∧ s.vr.palette.within Config.paletteSize
  cart : ∀ c, s.cart = some c → CartridgeWf s.params c
  flags : s.wasReset = true → flag .u s.p = true ∧ flag .b s.p = false
  status : s.wasReset = true → s.vr.status &&& 0x1F = 0

/-- `n` steps, stopping at the first fault or refusal: `Host.Core.run` of this machine. -/
def runFor : Nat → State → Result
  | 0, s => .next s
  | n + 1, s =>
    match step s with
    | .next t => runFor n t
    | .fault e => .fault e
    | .refused e => .refused e

/-- The next step is a master pulse on which the CPU starts something: a reset has happened, no host
action is due, the divider clocks the CPU, and no cycles remain. -/
structure AtBoundary (s : State) : Prop where
  wasReset : s.wasReset = true
  schedule : s.schedule = []
  clocks : s.pulseCount % Config.clockRatio = 0
  cycles : s.cycles = 0

/-- No interrupt is taken at the boundary (60_exceptions.md R242). -/
structure NoInterrupt (s : State) : Prop where
  nmi : s.nmiPending = false
  irq : s.irqLine = false ∨ flag .i s.p = true

/-- A CPU address outside the video-register window, so that reading it has no side effect
(20_memory.md R69). -/
def plainAddr (s : State) (a : Word) : Prop := ∀ r, cpuReadTarget s a ≠ .vreg r

/-- What reading the Bus can change of the video registers: the vertical-blank bit, the latch, the VRAM
address and the buffer (20_memory.md R69; 60_exceptions.md R257, R263), and the model's own count of free
values (log 9). -/
structure ReadEffects (v w : VideoRegs) : Prop where
  control : w.control = v.control
  mask : w.mask = v.mask
  status : w.status &&& 0x7F = v.status &&& 0x7F
  nametable : w.nametable = v.nametable
  palette : w.palette = v.palette

/-- `v` with the fields that a Bus write reaching `target` may change taken from `w`: a register's own ones,
for Data the VRAM address and the video memories, and none for a register that ignores writes or an
address that is no register (60_exceptions.md R252 to R255, R258, R259). -/
def writtenRegs (target : CpuTarget) (v w : VideoRegs) : VideoRegs :=
  match target with
  | .vreg .control => { v with control := w.control }
  | .vreg .mask => { v with mask := w.mask }
  | .vreg .address => { v with vramAddr := w.vramAddr, latch := w.latch }
  | .vreg .data => { v with vramAddr := w.vramAddr, nametable := w.nametable, palette := w.palette }
  | .vreg .status | .vreg .oamAddress | .vreg .oamData | .vreg .scroll => v
  | .prg _ | .wram _ | .undecoded => v

/-- `q` is `p` with the flags of `l` at the listed values, and every other flag as in `p`. -/
def FlagsAfter (p q : Byte) (l : List (Flag × Bool)) : Prop :=
  ∀ f, flag f q = (l.lookup f).getD (flag f p)

/-- The opcode table gives a mnemonic exactly these entries: opcode byte, mode, base cycles. -/
def HasRows (n : Mnem) (rows : List (Byte × ModeTag × Nat)) : Prop :=
  (∀ r ∈ rows, rowOf r.1 = ⟨r.1, n, r.2.1, r.2.2⟩) ∧ ∀ op, (rowOf op).mnem = n → op ∈ rows.map Prod.fst

/-- The operand byte of a mode, and the state after the mode is resolved and the operand read. -/
def operandOf (m : Mode) (s : State) : Byte × State := operand m (resolve m s).2

/-- `i`, whose mode is `m`, completes: the operand is read, the registers change as `upd` says, the flags
of `l` take the listed values and no other flag changes, and the cost grows by one when the mode crosses a
page and `extra` holds. -/
def CompletesReading (i : Instr) (m : Mode) (extra : Bool) (s : State) (upd : State → State)
    (l : List (Flag × Bool)) : Prop :=
  ∃ q, exec i s = .next
      { upd (operandOf m s).2 with p := q, cycles := s.cycles + ((resolve m s).1 && extra).toNat } ∧
    FlagsAfter s.p q l

/-- `i`, whose mode is `m`, completes: the operand is read, `r` is written to `A` in IMP and to memory at
`ea` otherwise, the flags of `l` take the listed values, and nothing else changes. -/
def CompletesModifying (i : Instr) (m : Mode) (s : State) (r : Byte) (l : List (Flag × Bool)) : Prop :=
  ∃ q, exec i s = .next
      { (if m = .imp then (operandOf m s).2.setA r
         else busWrite (operandOf m s).2 (operandOf m s).2.ea r) with p := q } ∧
    FlagsAfter s.p q l

/-- `i`, an IMP instruction, completes: the registers change as `upd` says, the flags of `l` take the
listed values, and nothing else changes (IMP copies `A` into `fetched`, R101). -/
def CompletesImplied (i : Instr) (s : State) (upd : State → State) (l : List (Flag × Bool)) : Prop :=
  ∃ q, exec i s = .next { upd (s.setFetched s.a) with p := q } ∧ FlagsAfter s.p q l

/-- The work-RAM cell of a stack slot (10_state.md R24). -/
def stackCell (sp : Byte) : Nat := 0x0100 + sp.toNat

end Sys2Proof.Machine
end

