-- ==== Sys2Proof/Certificates/Slice0/Obligations.lean ====
section
/-! DEFINITION. The statements for the provers. Safety.lean has their vocabulary. -/

open Sys2Proof Sys2Proof.Machine

/-- ADC adds the operand and the carry, and sets C, Z, V, N (R140). The table has ADC's eight entries.
For every mode and state ADC completes: A becomes (A + m + C) mod 256, C is set exactly when the sum
exceeds 255, Z and N come from the result, V is set exactly when A and m have one sign and the
result the other; no other flag, register or memory byte changes beyond the reading of the operand;
one cycle more on a page cross. -/
def Obligations.AdcAddsWithCarry : Prop :=
  HasRows .adc [(0x69, .imm, 2), (0x65, .zp0, 3), (0x75, .zpx, 4), (0x6D, .abs, 4), (0x7D, .abx, 4), (0x79, .aby, 4), (0x61, .izx, 6), (0x71, .izy, 5)] ∧
  ∀ (m : Mode) (s : State),
    let v := (operandOf m s).1
    let sum := s.a.toNat + v.toNat + (flag .c s.p).toNat
    ∃ r : Byte, r.toNat = sum % 256 ∧
      CompletesReading (.adc m) m true s (fun u => u.setA r)
        [(.c, decide (255 < sum)), (.z, decide (r = 0)), (.n, r.msb),
          (.v, s.a.msb == v.msb && r.msb != s.a.msb)]

/-- SBC subtracts the operand and the borrow, and sets C, Z, V, N (R141). The table has SBC's eight
entries. For every mode and state SBC completes, reading its operand once: A becomes (A - m - (1 -
C)) mod 256, C is set exactly when no borrow is needed, Z and N come from the result, V is set
exactly when A and m differ in sign and the result's sign differs from A's; nothing else changes
beyond the reading of the operand; one cycle more on a page cross. -/
def Obligations.SbcSubtractsWithBorrow : Prop :=
  HasRows .sbc [(0xE9, .imm, 2), (0xE5, .zp0, 3), (0xF5, .zpx, 4), (0xED, .abs, 4), (0xFD, .abx, 4), (0xF9, .aby, 4), (0xE1, .izx, 6), (0xF1, .izy, 5)] ∧
  ∀ (m : Mode) (s : State),
    let v := (operandOf m s).1
    let sub := v.toNat + (!flag .c s.p).toNat
    ∃ r : Byte, r.toNat = (s.a.toNat + 256 - sub) % 256 ∧
      CompletesReading (.sbc m) m true s (fun u => u.setA r)
        [(.c, decide (sub ≤ s.a.toNat)), (.z, decide (r = 0)), (.n, r.msb),
          (.v, s.a.msb != v.msb && r.msb != s.a.msb)]

/-- AND, ORA and EOR combine A with the operand bit by bit (R142, R143, R144). The table has the eight
entries of each. For every mode and state each completes: every bit of A becomes the and, or,
exclusive or of A's bit and the operand's, Z and N come from the result, no other flag changes,
nothing else changes beyond the reading of the operand; one cycle more on a page cross. -/
def Obligations.LogicalInstructionsCombineBits : Prop :=
  HasRows .and [(0x29, .imm, 2), (0x25, .zp0, 3), (0x35, .zpx, 4), (0x2D, .abs, 4), (0x3D, .abx, 4), (0x39, .aby, 4), (0x21, .izx, 6), (0x31, .izy, 5)] ∧
  HasRows .ora [(0x09, .imm, 2), (0x05, .zp0, 3), (0x15, .zpx, 4), (0x0D, .abs, 4), (0x1D, .abx, 4), (0x19, .aby, 4), (0x01, .izx, 6), (0x11, .izy, 5)] ∧
  HasRows .eor [(0x49, .imm, 2), (0x45, .zp0, 3), (0x55, .zpx, 4), (0x4D, .abs, 4), (0x5D, .abx, 4), (0x59, .aby, 4), (0x41, .izx, 6), (0x51, .izy, 5)] ∧
  ∀ (m : Mode) (s : State),
    let v := (operandOf m s).1
    (∃ r : Byte, (∀ k, r.getLsbD k = (s.a.getLsbD k && v.getLsbD k)) ∧
      CompletesReading (.and m) m true s (fun u => u.setA r) [(.z, decide (r = 0)), (.n, r.msb)]) ∧
    (∃ r : Byte, (∀ k, r.getLsbD k = (s.a.getLsbD k || v.getLsbD k)) ∧
      CompletesReading (.ora m) m true s (fun u => u.setA r) [(.z, decide (r = 0)), (.n, r.msb)]) ∧
    (∃ r : Byte, (∀ k, r.getLsbD k = (s.a.getLsbD k ^^ v.getLsbD k)) ∧
      CompletesReading (.eor m) m true s (fun u => u.setA r) [(.z, decide (r = 0)), (.n, r.msb)])

/-- BIT takes Z from A and m, N and V from the operand's bits 7 and 6 (R145). The table has BIT's two
entries. For every mode and state BIT completes: Z is set exactly when no bit is set in both A and
m, N is the operand's bit 7, V its bit 6; A and every other flag are unchanged; no page-cross cycle. -/
def Obligations.BitTestsTheOperand : Prop :=
  HasRows .bit [(0x24, .zp0, 3), (0x2C, .abs, 4)] ∧
  ∀ (m : Mode) (s : State),
    let v := (operandOf m s).1
    CompletesReading (.bit m) m false s id
      [(.z, (List.range 8).all fun k => !(s.a.getLsbD k && v.getLsbD k)), (.n, v.getLsbD 7),
        (.v, v.getLsbD 6)]

/-- ASL, LSR, ROL, ROR move every bit by one place, through the carry for the rotates (R150, R151, R152,
R153). The table has the five entries of each. For every mode and state each completes with one read
and one write: ASL doubles modulo 256, LSR halves, ROL doubles and adds the old carry, ROR halves
and puts the old carry in bit 7; C is the bit shifted out, Z and N come from the result; nothing
else changes; no page-cross cycle. -/
def Obligations.ShiftsAndRotatesMoveOneBit : Prop :=
  HasRows .asl [(0x0A, .imp, 2), (0x06, .zp0, 5), (0x16, .zpx, 6), (0x0E, .abs, 6), (0x1E, .abx, 7)] ∧
  HasRows .lsr [(0x4A, .imp, 2), (0x46, .zp0, 5), (0x56, .zpx, 6), (0x4E, .abs, 6), (0x5E, .abx, 7)] ∧
  HasRows .rol [(0x2A, .imp, 2), (0x26, .zp0, 5), (0x36, .zpx, 6), (0x2E, .abs, 6), (0x3E, .abx, 7)] ∧
  HasRows .ror [(0x6A, .imp, 2), (0x66, .zp0, 5), (0x76, .zpx, 6), (0x6E, .abs, 6), (0x7E, .abx, 7)] ∧
  ∀ (m : Mode) (s : State),
    let v := (operandOf m s).1
    let c := (flag .c s.p).toNat
    (∃ r : Byte, r.toNat = 2 * v.toNat % 256 ∧ CompletesModifying (.asl m) m s r
      [(.c, decide (128 ≤ v.toNat)), (.z, decide (r = 0)), (.n, r.msb)]) ∧
    (∃ r : Byte, r.toNat = v.toNat / 2 ∧ CompletesModifying (.lsr m) m s r
      [(.c, decide (v.toNat % 2 = 1)), (.z, decide (r = 0)), (.n, false)]) ∧
    (∃ r : Byte, r.toNat = (2 * v.toNat + c) % 256 ∧ CompletesModifying (.rol m) m s r
      [(.c, decide (128 ≤ v.toNat)), (.z, decide (r = 0)), (.n, r.msb)]) ∧
    (∃ r : Byte, r.toNat = v.toNat / 2 + 128 * c ∧ CompletesModifying (.ror m) m s r
      [(.c, decide (v.toNat % 2 = 1)), (.z, decide (r = 0)), (.n, flag .c s.p)])

/-- CMP, CPX, CPY compare unsigned and set C, Z, N only (R155, R156, R157). The table has the entries of
each. For every mode and state each completes: C is set exactly when the register is at least the
operand, Z when they are equal, N is bit 7 of the difference modulo 256; V, the register and
everything else are unchanged beyond the reading of the operand; a page-cross cycle for CMP only. -/
def Obligations.ComparesSetCarryZeroNegative : Prop :=
  HasRows .cmp [(0xC9, .imm, 2), (0xC5, .zp0, 3), (0xD5, .zpx, 4), (0xCD, .abs, 4), (0xDD, .abx, 4), (0xD9, .aby, 4), (0xC1, .izx, 6), (0xD1, .izy, 5)] ∧
  HasRows .cpx [(0xE0, .imm, 2), (0xE4, .zp0, 3), (0xEC, .abs, 4)] ∧
  HasRows .cpy [(0xC0, .imm, 2), (0xC4, .zp0, 3), (0xCC, .abs, 4)] ∧
  ∀ (m : Mode) (s : State),
    let v := (operandOf m s).1
    let flags := fun (r : Byte) =>
      [(Flag.c, decide (v.toNat ≤ r.toNat)), (.z, decide (r = v)),
        (.n, decide (128 ≤ (r.toNat + 256 - v.toNat) % 256))]
    CompletesReading (.cmp m) m true s id (flags s.a) ∧
    CompletesReading (.cpx m) m false s id (flags s.x) ∧
    CompletesReading (.cpy m) m false s id (flags s.y)

/-- INC and DEC step a memory byte by one modulo 256 (R160, R161). The table has the four entries of
each. For every mode and state each completes with one read and one write of the byte plus or minus
1 modulo 256; Z and N come from the result; C, V and everything else are unchanged; no page-cross
cycle. -/
def Obligations.IncAndDecStepAMemoryByte : Prop :=
  HasRows .inc [(0xE6, .zp0, 5), (0xF6, .zpx, 6), (0xEE, .abs, 6), (0xFE, .abx, 7)] ∧
  HasRows .dec [(0xC6, .zp0, 5), (0xD6, .zpx, 6), (0xCE, .abs, 6), (0xDE, .abx, 7)] ∧
  ∀ (m : Mode) (s : State),
    let v := (operandOf m s).1
    (∃ r : Byte, r.toNat = (v.toNat + 1) % 256 ∧
      CompletesModifying (.inc m) m s r [(.z, decide (r = 0)), (.n, r.msb)]) ∧
    (∃ r : Byte, r.toNat = (v.toNat + 255) % 256 ∧
      CompletesModifying (.dec m) m s r [(.z, decide (r = 0)), (.n, r.msb)])

/-- INX, INY, DEX, DEY step an index register modulo 256 (R162, R163, R164, R165). The table has the
entry of each. In every state each completes: the register changes by 1 modulo 256, Z and N come
from it, every other flag and everything else is unchanged (IMP copies A into the internal fetched
byte). -/
def Obligations.IndexRegistersStepModulo256 : Prop :=
  HasRows .inx [(0xE8, .imp, 2)] ∧ HasRows .iny [(0xC8, .imp, 2)] ∧
  HasRows .dex [(0xCA, .imp, 2)] ∧ HasRows .dey [(0x88, .imp, 2)] ∧
  ∀ s : State,
    (∃ r : Byte, r.toNat = (s.x.toNat + 1) % 256 ∧
      CompletesImplied .inx s (fun u => u.setX r) [(.z, decide (r = 0)), (.n, r.msb)]) ∧
    (∃ r : Byte, r.toNat = (s.y.toNat + 1) % 256 ∧
      CompletesImplied .iny s (fun u => u.setY r) [(.z, decide (r = 0)), (.n, r.msb)]) ∧
    (∃ r : Byte, r.toNat = (s.x.toNat + 255) % 256 ∧
      CompletesImplied .dex s (fun u => u.setX r) [(.z, decide (r = 0)), (.n, r.msb)]) ∧
    (∃ r : Byte, r.toNat = (s.y.toNat + 255) % 256 ∧
      CompletesImplied .dey s (fun u => u.setY r) [(.z, decide (r = 0)), (.n, r.msb)])

/-- LDA, LDX, LDY copy the operand into a register and set Z and N (R170, R171, R172). The table has the
entries of each. For every mode and state each completes: the register becomes the operand byte, Z
and N come from it, no other flag changes, nothing else changes beyond the reading of the operand;
one cycle more on a page cross. -/
def Obligations.LoadsCopyTheOperand : Prop :=
  HasRows .lda [(0xA9, .imm, 2), (0xA5, .zp0, 3), (0xB5, .zpx, 4), (0xAD, .abs, 4), (0xBD, .abx, 4), (0xB9, .aby, 4), (0xA1, .izx, 6), (0xB1, .izy, 5)] ∧
  HasRows .ldx [(0xA2, .imm, 2), (0xA6, .zp0, 3), (0xB6, .zpy, 4), (0xAE, .abs, 4), (0xBE, .aby, 4)] ∧
  HasRows .ldy [(0xA0, .imm, 2), (0xA4, .zp0, 3), (0xB4, .zpx, 4), (0xAC, .abs, 4), (0xBC, .abx, 4)] ∧
  ∀ (m : Mode) (s : State),
    let v := (operandOf m s).1
    CompletesReading (.lda m) m true s (fun u => u.setA v) [(.z, decide (v = 0)), (.n, v.msb)] ∧
    CompletesReading (.ldx m) m true s (fun u => u.setX v) [(.z, decide (v = 0)), (.n, v.msb)] ∧
    CompletesReading (.ldy m) m true s (fun u => u.setY v) [(.z, decide (v = 0)), (.n, v.msb)]

/-- STA, STX, STY write the register at the effective address and no flag (R173, R174, R175). The table
has the entries of each. For every mode and state each completes: after the mode is resolved, one
bus write of the register at ea, which is not read; P is unchanged; no page-cross cycle. -/
def Obligations.StoresWriteOneByteAndNoFlag : Prop :=
  HasRows .sta [(0x85, .zp0, 3), (0x95, .zpx, 4), (0x8D, .abs, 4), (0x9D, .abx, 5), (0x99, .aby, 5), (0x81, .izx, 6), (0x91, .izy, 6)] ∧
  HasRows .stx [(0x86, .zp0, 3), (0x96, .zpy, 4), (0x8E, .abs, 4)] ∧
  HasRows .sty [(0x84, .zp0, 3), (0x94, .zpx, 4), (0x8C, .abs, 4)] ∧
  ∀ (m : Mode) (s : State),
    let u := (resolve m s).2
    (∃ t, exec (.sta m) s = .next t ∧ t = busWrite u u.ea s.a ∧ t.p = s.p ∧ t.cycles = s.cycles) ∧
    (∃ t, exec (.stx m) s = .next t ∧ t = busWrite u u.ea s.x ∧ t.p = s.p ∧ t.cycles = s.cycles) ∧
    (∃ t, exec (.sty m) s = .next t ∧ t = busWrite u u.ea s.y ∧ t.p = s.p ∧ t.cycles = s.cycles)

/-- The transfers copy one register; all but TXS set Z and N (R180, R181, R182, R183, R184, R185). The
table has the entry of each. In every state each completes: the destination becomes the source, Z
and N come from it except for TXS, which writes no flag; everything else is unchanged (IMP copies A
into the internal fetched byte). -/
def Obligations.TransfersCopyOneRegister : Prop :=
  HasRows .tax [(0xAA, .imp, 2)] ∧ HasRows .tay [(0xA8, .imp, 2)] ∧
  HasRows .txa [(0x8A, .imp, 2)] ∧ HasRows .tya [(0x98, .imp, 2)] ∧
  HasRows .tsx [(0xBA, .imp, 2)] ∧ HasRows .txs [(0x9A, .imp, 2)] ∧
  ∀ s : State,
    CompletesImplied .tax s (fun u => u.setX s.a) [(.z, decide (s.a = 0)), (.n, s.a.msb)] ∧
    CompletesImplied .tay s (fun u => u.setY s.a) [(.z, decide (s.a = 0)), (.n, s.a.msb)] ∧
    CompletesImplied .txa s (fun u => u.setA s.x) [(.z, decide (s.x = 0)), (.n, s.x.msb)] ∧
    CompletesImplied .tya s (fun u => u.setA s.y) [(.z, decide (s.y = 0)), (.n, s.y.msb)] ∧
    CompletesImplied .tsx s (fun u => u.setX s.sp) [(.z, decide (s.sp = 0)), (.n, s.sp.msb)] ∧
    exec .txs s = .next { s with sp := s.x, fetched := s.a }

/-- PHA and PHP store one byte in the stack page's work RAM and move SP down (R190, R192, R194). The
table has the entry of each. In every state each completes: the work-RAM cell 0x0100 + SP takes A
(PHA) or P with B and U set (PHP), SP becomes SP - 1 modulo 256, and nothing else changes, the live
P included (IMP copies A into the internal fetched byte). With mapper 0 the stack page is work RAM. -/
def Obligations.PushesStoreBelowTheStackPointer : Prop :=
  HasRows .pha [(0x48, .imp, 3)] ∧ HasRows .php [(0x08, .imp, 3)] ∧
  ∀ s : State,
    exec .pha s = .next { s with
      fetched := s.a, wram := s.wram.write (stackCell s.sp) s.a, sp := s.sp - 1 } ∧
    ∃ v, FlagsAfter s.p v [(.b, true), (.u, true)] ∧
      exec .php s = .next { s with
        fetched := s.a, wram := s.wram.write (stackCell s.sp) v, sp := s.sp - 1 }

/-- PLA and PLP move SP up and load the byte there (R191, R193, R195). The table has the entry of each.
In every state each completes: SP becomes SP + 1 modulo 256 and the work-RAM cell 0x0100 + SP goes
to A with Z and N from it (PLA), or to P with B forced to 0 and U to 1 (PLP); nothing else changes
(IMP copies the old A into the internal fetched byte). -/
def Obligations.PullsLoadFromAboveTheStackPointer : Prop :=
  HasRows .pla [(0x68, .imp, 4)] ∧ HasRows .plp [(0x28, .imp, 4)] ∧
  ∀ s : State,
    let v := s.wram.read (stackCell (s.sp + 1))
    (∃ q, FlagsAfter s.p q [(.z, decide (v = 0)), (.n, v.msb)] ∧
      exec .pla s = .next { s with fetched := s.a, sp := s.sp + 1, a := v, p := q }) ∧
    ∃ q, FlagsAfter v q [(.b, false), (.u, true)] ∧
      exec .plp s = .next { s with fetched := s.a, sp := s.sp + 1, p := q }

/-- JMP sets PC to the effective address and writes no flag (R200). The table has JMP's two entries. For
every mode and state JMP completes: PC becomes ea, and nothing else changes beyond the resolving of
the mode. The pointer of JMP ($xxFF), in memory whose reading has no side effect, takes its high
byte from $xx00. -/
def Obligations.JumpSetsThePc : Prop :=
  HasRows .jmp [(0x4C, .abs, 3), (0x6C, .ind, 5)] ∧
  (∀ (m : Mode) (s : State),
    exec (.jmp m) s = .next { (resolve m s).2 with pc := (resolve m s).2.ea }) ∧
  (∀ (w : Word) (s : State), exec (.jmp (.abs w)) s = .next { s with ea := w, pc := w }) ∧
  ∀ (hi : Byte) (s : State), plainAddr s (word hi 0xFF) → plainAddr s (word hi 0x00) →
    let target := word (memPeek s (word hi 0x00)) (memPeek s (word hi 0xFF))
    exec (.jmp (.ind (word hi 0xFF))) s = .next { s with ea := target, pc := target }

/-- Each branch tests one flag; taken, it adds the signed displacement and one or two cycles (R201,
R202, R203, R204, R205, R206, R207, R208, R209). The table has the entry of each branch. In every
state each of the eight completes: where its flag has not the wanted value, nothing but the internal
displacement changes; where it has, PC becomes PC plus the sign-extended displacement modulo 2^16,
and the cost grows by 1, or by 2 when the target is on another page than PC. -/
def Obligations.BranchesTestOneFlag : Prop :=
  HasRows .bpl [(0x10, .rel, 2)] ∧
  HasRows .bmi [(0x30, .rel, 2)] ∧
  HasRows .bvc [(0x50, .rel, 2)] ∧
  HasRows .bvs [(0x70, .rel, 2)] ∧
  HasRows .bcc [(0x90, .rel, 2)] ∧
  HasRows .bcs [(0xB0, .rel, 2)] ∧
  HasRows .bne [(0xD0, .rel, 2)] ∧
  HasRows .beq [(0xF0, .rel, 2)] ∧
  ∀ b ∈ [(Instr.bpl, Flag.n, false), (.bmi, .n, true), (.bvc, .v, false), (.bvs, .v, true),
      (.bcc, .c, false), (.bcs, .c, true), (.bne, .z, false), (.beq, .z, true)],
    ∀ (d : Byte) (s : State),
      let rel := if d.msb then word 0xFF d else word 0x00 d
      let target := s.pc + rel
      exec (b.1 d) s = .next (if flag b.2.1 s.p = b.2.2 then
          { s with
            fetched := s.fetched, rel := rel, pc := target
            cycles := s.cycles + 1 + (if hiByte target = hiByte s.pc then 0 else 1) }
        else { s with rel := rel })

/-- JSR pushes the address of its last byte; RTS pulls it and adds 1 (R210, R211). The table has the
entry of each. In every state JSR completes: PC - 1 is stored high byte first in the two work-RAM
cells from 0x0100 + SP down, SP falls by 2, PC becomes the operand. RTS completes: the two cells
above SP give PC minus 1, low byte first, and SP rises by 2. Nothing else changes but the internal
ea or fetched. -/
def Obligations.CallAndReturnUseTheStack : Prop :=
  HasRows .jsr [(0x20, .abs, 6)] ∧ HasRows .rts [(0x60, .imp, 6)] ∧
  ∀ s : State,
    (∀ w : Word, exec (.jsr w) s = .next { s with
      ea := w, pc := w, sp := s.sp - 2
      wram := (s.wram.write (stackCell s.sp) (hiByte (s.pc - 1))).write (stackCell (s.sp - 1))
        (loByte (s.pc - 1)) }) ∧
    exec .rts s = .next { s with
      fetched := s.a, sp := s.sp + 2
      pc := word (s.wram.read (stackCell (s.sp + 2))) (s.wram.read (stackCell (s.sp + 1))) + 1 }

/-- Each flag instruction writes exactly its one flag (R220, R221, R224, R225, R226). The table has the
entry of each of CLC, SEC, CLI, SEI, CLD, SED, CLV. In every state each completes: its flag takes
its value, no other flag and nothing else changes (IMP copies A into the internal fetched byte). -/
def Obligations.FlagInstructionsWriteOneFlag : Prop :=
  HasRows .clc [(0x18, .imp, 2)] ∧
  HasRows .sec [(0x38, .imp, 2)] ∧
  HasRows .cli [(0x58, .imp, 2)] ∧
  HasRows .sei [(0x78, .imp, 2)] ∧
  HasRows .cld [(0xD8, .imp, 2)] ∧
  HasRows .sed [(0xF8, .imp, 2)] ∧
  HasRows .clv [(0xB8, .imp, 2)] ∧
  ∀ b ∈ [(Instr.clc, Flag.c, false), (.sec, .c, true), (.cli, .i, false), (.sei, .i, true),
      (.cld, .d, false), (.sed, .d, true), (.clv, .v, false)],
    ∀ s : State, CompletesImplied b.1 s id [(b.2.1, b.2.2)]

/-- BRK stacks its address + 2 and P with B set, sets I, and takes the IRQ/BRK vector (R227). The table
has BRK's entry. In every state (PC = the BRK address + 1) BRK completes: PC + 1, high byte first,
and P with B = 1 and the old I are stored in the three work-RAM cells from 0x0100 + SP down, SP
falls by 3, the live P has B = 0 and I = 1 and is otherwise unchanged, PC is the little-endian word
at 0xFFFE, and nothing else changes but the internal fetched byte. -/
def Obligations.BrkEntersTheHandler : Prop :=
  HasRows .brk [(0x00, .imp, 7)] ∧
  ∀ s : State, ∃ st q, FlagsAfter s.p st [(.b, true)] ∧ FlagsAfter s.p q [(.b, false), (.i, true)] ∧
    exec .brk s = .next { s with
      fetched := s.a, sp := s.sp - 3, p := q
      pc := word (memPeek s 0xFFFF) (memPeek s 0xFFFE)
      wram := ((s.wram.write (stackCell s.sp) (hiByte (s.pc + 1))).write (stackCell (s.sp - 1))
        (loByte (s.pc + 1))).write (stackCell (s.sp - 2)) st }

/-- RTI pulls P, then PC, with no increment (R229). The table has RTI's entry. In every state RTI
completes: the work-RAM cell above SP gives P, with B forced to 0 and U to 1, the next two give PC,
low byte first, SP rises by 3, and nothing else changes but the internal fetched byte. -/
def Obligations.RtiRestoresFlagsAndPc : Prop :=
  HasRows .rti [(0x40, .imp, 6)] ∧
  ∀ s : State, ∃ q, FlagsAfter (s.wram.read (stackCell (s.sp + 1))) q [(.b, false), (.u, true)] ∧
    exec .rti s = .next { s with
      fetched := s.a, sp := s.sp + 3, p := q
      pc := word (s.wram.read (stackCell (s.sp + 3))) (s.wram.read (stackCell (s.sp + 2))) }

/-- NOP, and every unofficial opcode under the nop policy, do nothing beyond the fetch (R228, R230,
R231). The table has NOP's entry, and the placeholder's for exactly the 105 bytes of R119, each one
byte long at 2 cycles. In every state NOP completes and changes only the internal fetched byte;
where ILLEGAL_OPCODE_POLICY is nop the placeholder does the same. -/
def Obligations.NopAndPlaceholderDoNothingMore : Prop :=
  HasRows .nop [(0xEA, .imp, 2)] ∧
  HasRows .unofficial (unofficialOpcodes.map fun op => (op, .imp, 2)) ∧ unofficialOpcodes.length = 105 ∧
  ∀ s : State, exec .nop s = .next { s with fetched := s.a } ∧
    (s.params.illegalPolicy = .nop → ∀ op, exec (.unofficial op) s = .next { s with fetched := s.a })

/-- Executing an instruction stops only at an unofficial opcode under the fault policy (R232). For every
instruction and state, exec answers a fault exactly when the instruction is the placeholder and
ILLEGAL_OPCODE_POLICY is fault, and the fault names the opcode and PC - 1; exec never refuses. -/
def Obligations.OnlyAnIllegalOpcodeUnderTheFaultPolicyFaults : Prop :=
  ∀ (i : Instr) (s : State),
    (∀ e, exec i s = .fault e ↔
      ∃ op, i = .unofficial op ∧ s.params.illegalPolicy = .fault ∧ e = .illegalOpcode op (s.pc - 1)) ∧
    ∀ e, exec i s ≠ .refused e

/-- The modes without a pointer form their address as stated, and the operand is A, the immediate, or
the byte read at ea (R101, R102, R103, R104, R105, R106, R107, R108, R112, R113, 30_encoding.md
section 2). With the operand bytes read: IMP copies A into fetched; IMM reports no page cross, and
its operand is its byte, read with the instruction's other bytes, at the address before PC (the
model's reading of R102 and R113: log 12); zero page is 0x00:b1; zero page indexed wraps at 256;
absolute is the word; absolute indexed wraps at 65536 and reports a page cross exactly when the high
byte differs from b2; REL sign-extends. IMP's operand is A; in every mode but IMP and IMM the
operand is one bus read at ea, with its side effects, and the internal fetched takes it. An
instruction's operand is that of the state its mode leaves. Nothing else changes. -/
def Obligations.DirectModesFormTheirAddress : Prop :=
  ∀ s : State,
    resolve .imp s = (false, { s with fetched := s.a }) ∧
    (∀ b, resolve (.imm b) s = (false, { s with ea := s.pc - 1 })) ∧
    (∀ b, operandOf (.imm b) s = (b, { s with ea := s.pc - 1, fetched := b })) ∧
    (∀ b, resolve (.zp0 b) s = (false, { s with ea := word 0x00 b })) ∧
    (∀ b, ∃ ea : Word, ea.toNat = (b.toNat + s.x.toNat) % 256 ∧
      resolve (.zpx b) s = (false, { s with ea := ea })) ∧
    (∀ b, ∃ ea : Word, ea.toNat = (b.toNat + s.y.toNat) % 256 ∧
      resolve (.zpy b) s = (false, { s with ea := ea })) ∧
    (∀ w, resolve (.abs w) s = (false, { s with ea := w })) ∧
    (∀ w, ∃ ea : Word, ea.toNat = (w.toNat + s.x.toNat) % 65536 ∧
      resolve (.abx w) s = (decide (ea.toNat / 256 ≠ w.toNat / 256), { s with ea := ea })) ∧
    (∀ w, ∃ ea : Word, ea.toNat = (w.toNat + s.y.toNat) % 65536 ∧
      resolve (.aby w) s = (decide (ea.toNat / 256 ≠ w.toNat / 256), { s with ea := ea })) ∧
    (∀ b, resolve (.rel b) s = (false, { s with rel := if b.msb then word 0xFF b else word 0x00 b })) ∧
    operandOf .imp s = (s.a, { s with fetched := s.a }) ∧
    (∀ m : Mode, operandOf m s = operand m (resolve m s).2) ∧
    ∀ m : Mode, m.tag ≠ .imp → m.tag ≠ .imm →
      operand m s = ((busRead s s.ea).1, { (busRead s s.ea).2 with fetched := (busRead s s.ea).1 })

/-- IZX and IZY read their pointer in the zero page, wrapping at 256, and IND wraps within its page
(R109, R110, R111, R315, 30_encoding.md section 2). IZX's address is the little-endian word at zero-
page cells b1 + X and b1 + X + 1, each modulo 256; IZY's is the word at b1 and b1 + 1 modulo 256,
plus Y modulo 65536, with a page cross exactly when the high byte changes. For every pointer, IND
reads the byte at the pointer and then, in the state that read leaves, the byte at pointer + 1, or
at the start of the same page when the pointer's low byte is 0xFF, each with its side effects; its
address is the first byte as low byte and the second as high byte. Where those two bytes lie outside
the video-register window, they are the bytes peeked and nothing but ea changes, as for IZX and IZY. -/
def Obligations.PointerModesReadTheirPointerWithItsWraps : Prop :=
  ∀ (s : State) (b : Byte) (ptr : Word),
    let second := BitVec.ofNat 16 (if ptr.toNat % 256 = 255 then ptr.toNat - 255 else ptr.toNat + 1)
    (∃ ea : Word, resolve (.izx b) s = (false, { s with ea := ea }) ∧
      ea.toNat = (s.wram.read ((b.toNat + s.x.toNat) % 256)).toNat +
        256 * (s.wram.read ((b.toNat + s.x.toNat + 1) % 256)).toNat) ∧
    (∃ base ea : Word,
      base.toNat = (s.wram.read b.toNat).toNat + 256 * (s.wram.read ((b.toNat + 1) % 256)).toNat ∧
      ea.toNat = (base.toNat + s.y.toNat) % 65536 ∧
      resolve (.izy b) s = (decide (ea.toNat / 256 ≠ base.toNat / 256), { s with ea := ea })) ∧
    resolve (.ind ptr) s = (false, { (busRead (busRead s ptr).2 second).2 with
      ea := word (busRead (busRead s ptr).2 second).1 (busRead s ptr).1 }) ∧
    (plainAddr s ptr → plainAddr s second →
      resolve (.ind ptr) s = (false, { s with ea := word (memPeek s second) (memPeek s ptr) }))

/-- An instruction that is no branch costs one cycle more exactly on a page cross of the reading set
(R115). For every instruction but the branches, if exec answers a next state, the cost grows by 1
when the mode reports a page cross and the mnemonic is one of ADC, AND, CMP, EOR, LDA, LDX, LDY,
ORA, SBC, and by 0 otherwise. -/
def Obligations.PageCrossCyclesAreChargedToReadingInstructions : Prop :=
  ∀ (i : Instr) (s t : State), i.mode.tag ≠ .rel → exec i s = .next t →
    t.cycles = s.cycles + ((resolve i.mode s).1 &&
      [Mnem.adc, .and, .cmp, .eor, .lda, .ldx, .ldy, .ora, .sbc].contains i.mnem).toNat

/-- Every instruction leaves every flag alone that the flag table does not give it (R30, 10_state.md
section 2). For every instruction and state, if exec answers a next state, each flag that R30's
table does not list for the mnemonic is as before. -/
def Obligations.NoFlagIsWrittenBeyondTheTable : Prop :=
  ∀ (i : Instr) (s t : State), exec i s = .next t → ∀ f : Flag,
    (match i.mnem with
      | .adc | .sbc => [Flag.c, .z, .v, .n]
      | .asl | .lsr | .rol | .ror | .cmp | .cpx | .cpy => [.c, .z, .n]
      | .and | .ora | .eor | .inc | .dec | .inx | .iny | .dex | .dey => [.z, .n]
      | .lda | .ldx | .ldy | .tax | .tay | .txa | .tya | .tsx | .pla => [.z, .n]
      | .bit => [.z, .v, .n]
      | .clc | .sec => [.c]
      | .cli | .sei => [.i]
      | .cld | .sed => [.d]
      | .clv => [.v]
      | .brk => [.b, .i]
      | .plp | .rti => [.c, .z, .i, .d, .b, .u, .v, .n]
      | .txs | .sta | .stx | .sty | .pha | .php | .jmp | .jsr | .rts | .nop | .unofficial => []
      | .bpl | .bmi | .bvc | .bvs | .bcc | .bcs | .bne | .beq => []).contains f = false →
    flag f t.p = flag f s.p

/-- Frame of the instructions that read an operand: one register, flags, and the read's own effects
(R21, R22, R23, R69, R113, 42_load_store_transfer.md section 1). For ADC SBC AND ORA EOR BIT CMP CPX
CPY LDA LDX LDY in every mode: if exec answers a next state, every register but the destination (A
for ADC SBC AND ORA EOR LDA, X for LDX, Y for LDY), SP, PC, the work RAM, the cartridge, the
interrupt inputs and everything else are unchanged but P, the cost, the internal ea, rel and
fetched, and of the video registers only the vertical-blank bit, the latch, the VRAM address, the
buffer and the model's own count of free values (log 9); every CPU address outside the video-
register window and every video address that is not past the end of the graphics bytes (a free value
there: log 9) reads as before. -/
def Obligations.ReadingInstructionsChangeNoMemory : Prop :=
  ∀ (m : Mode) (i : Instr), i ∈ [.adc m, .sbc m, .and m, .ora m, .eor m, .bit m, .cmp m, .cpx m, .cpy m,
      .lda m, .ldx m, .ldy m] → ∀ s t : State, exec i s = .next t →
    t = { s with
      a := if i ∈ [.adc m, .sbc m, .and m, .ora m, .eor m, .lda m] then t.a else s.a
      x := if i = .ldx m then t.x else s.x
      y := if i = .ldy m then t.y else s.y
      p := t.p, cycles := t.cycles, ea := t.ea, rel := t.rel, fetched := t.fetched, vr := t.vr } ∧
    ReadEffects s.vr t.vr ∧
    (∀ addr, plainAddr s addr → memPeek t addr = memPeek s addr) ∧
    ∀ va, (∀ k, videoReadTarget s va ≠ .absent k) → videoRead t va = videoRead s va

/-- Frame of the storing forms: the byte behind ea, a video register's own effects where ea is one, and
nothing else (R61, R63, R114, R173, R174, R175, R252, R253, R255, R258, R259,
42_load_store_transfer.md section 2). For STA STX STY, and ASL LSR ROL ROR INC DEC in every mode but
IMP, from every state that meets the invariant: if exec answers a next state, A, X, Y, SP, PC, the
cost, the interrupt inputs and everything else are unchanged but P, the internal ea, rel, fetched,
the video registers, the work RAM and the cartridge's bytes. P is unchanged by a store, and no flag
but C, Z, N by the others. With ea the address resolving the mode gives: every CPU address outside
the video-register window that does not share ea's storage reads as before, and unless ea is the
Data register the graphics bytes, the nametables and the palette are as before; if it is, the write
goes to the video address held after the operand is read (a store reads none), and every graphics,
nametable and palette cell other than that address's reads as before. Resolving and reading change
of the video registers only what reads can, and nothing where the pointer of IND and, for the forms
that read their operand, ea lie outside the register window; the write then changes Control's,
Mask's or Address's own fields, or for Data the VRAM address and one video byte, and no video
register where ea is no register or is one that ignores writes. -/
def Obligations.StoringInstructionsChangeOnlyTheBytesTheyStoreTo : Prop :=
  ∀ (m : Mode) (i : Instr), m ≠ .imp → i ∈ [.sta m, .stx m, .sty m, .asl m, .lsr m, .rol m, .ror m, .inc m,
      .dec m] → ∀ s t : State, Inv s → exec i s = .next t →
    let ea := (resolve m s).2.ea
    let u := if i ∈ [.sta m, .stx m, .sty m] then (resolve m s).2 else (operandOf m s).2
    let w := videoWriteTarget u (dataAddr u.vr)
    t = { s with
      p := t.p, ea := t.ea, rel := t.rel, fetched := t.fetched, vr := t.vr, wram := t.wram, cart := t.cart } ∧
    (i ∈ [.sta m, .stx m, .sty m] → t.p = s.p) ∧
    (∀ f, f ≠ .c → f ≠ .z → f ≠ .n → flag f t.p = flag f s.p) ∧
    (∀ addr, plainAddr s addr → cpuReadTarget s addr ≠ cpuWriteTarget s ea →
      memPeek t addr = memPeek s addr) ∧
    (∀ k, (cpuWriteTarget s ea = .vreg .data → w ≠ .chr k) →
      (chrBytes t).read k = (chrBytes s).read k) ∧
    (∀ k, (cpuWriteTarget s ea = .vreg .data → w ≠ .nametable k) →
      t.vr.nametable.read k = s.vr.nametable.read k) ∧
    (∀ k, (cpuWriteTarget s ea = .vreg .data → w ≠ .palette k) →
      t.vr.palette.read k = s.vr.palette.read k) ∧
    ReadEffects s.vr u.vr ∧
    ((∀ ptr, m = .ind ptr → plainAddr s ptr ∧ plainAddr s (pointerHighAddr ptr)) →
      (i ∈ [.sta m, .stx m, .sty m] ∨ plainAddr s ea) → u.vr = s.vr) ∧
    t.vr = writtenRegs (cpuWriteTarget s ea) u.vr t.vr

/-- Frame of PHA, PHP, JSR, BRK: the pushed slots of the stack page and nothing else in memory (R190,
R192, R194, R210, R227, R249). From every state that meets the invariant: if exec answers a next
state for PHA, PHP, JSR or BRK, every CPU address outside the video-register window that is not one
of the 1, 1, 2 or 3 stack slots pushed reads as before, the cartridge and the video registers are
unchanged, and so are A, X and Y. -/
def Obligations.PushingInstructionsChangeOnlyTheirStackSlots : Prop :=
  ∀ b ∈ [(Mnem.pha, 1), (.php, 1), (.jsr, 2), (.brk, 3)], ∀ (i : Instr) (s t : State), i.mnem = b.1 →
    Inv s → exec i s = .next t →
      (∀ addr, plainAddr s addr →
        (∀ k : Nat, k < b.2 → cpuReadTarget s addr ≠ .wram (stackCell (s.sp - BitVec.ofNat 8 k))) →
        memPeek t addr = memPeek s addr) ∧
      t.cart = s.cart ∧ t.vr = s.vr ∧ t.a = s.a ∧ t.x = s.x ∧ t.y = s.y

/-- No instruction changes the interrupt inputs, the pulse count, the parameters or the host's schedule
(R33, R34, R275, 10_state.md section 4). For every instruction and state, if exec answers a next
state, nmi_pending, irq_line, pulse_count, the opcode byte, the parameters (data in the model's
state: log 7), the reset mark and the schedule (the model's own fields: logs 6 and 2) are as before,
and a cartridge keeps its bank counts, its mapper, its mapper id and its mirroring mode. -/
def Obligations.ExecutionNeverTouchesInputsOrTheClock : Prop :=
  ∀ (i : Instr) (s t : State), exec i s = .next t →
    t.nmiPending = s.nmiPending ∧ t.irqLine = s.irqLine ∧ t.pulseCount = s.pulseCount ∧
    t.opcode = s.opcode ∧ t.params = s.params ∧ t.wasReset = s.wasReset ∧ t.schedule = s.schedule ∧
    t.cart.map (fun c => (c.prgBanks, c.chrBanks, c.mapperId, c.mirror, c.mapper)) =
      s.cart.map (fun c => (c.prgBanks, c.chrBanks, c.mapperId, c.mirror, c.mapper))

/-- Below 0x2000 the Bus reads and writes work RAM modulo 0x0800, so a byte written at one mirror is
read back at all four (R64). In every state, for every address a below 0x2000: a read returns the
work-RAM byte a modulo 0x0800 and has no other effect; a write of v stores v there and has no other
effect. Where the work RAM is in canonical form, a read of b below 0x2000 after that write returns v
when a and b agree modulo 0x0800, and what it returned before otherwise. -/
def Obligations.WorkRamIsMirroredFourTimes : Prop :=
  ∀ (s : State) (a : Word) (v : Byte), a.toNat < 0x2000 →
    busRead s a = (s.wram.read (a.toNat % 0x0800), s) ∧
    busWrite s a v = { s with wram := s.wram.write (a.toNat % 0x0800) v } ∧
    (s.wram.wf = true → ∀ b : Word, b.toNat < 0x2000 → busRead (busWrite s a v) b =
      (if a.toNat % 0x0800 = b.toNat % 0x0800 then v else (busRead s b).1, busWrite s a v))

/-- An unclaimed address above 0x3FFF reads 0x00 and discards writes (R66). In every state, for every
address above 0x3FFF that no cartridge claims for reading, a read returns 0x00 and changes nothing;
for every one that none claims for writing, a write changes nothing; with mapper 0 the unclaimed
ones above 0x3FFF are exactly 0x4000-0x7FFF, and with no cartridge all of them. -/
def Obligations.UndecodedAddressesReadZero : Prop :=
  ∀ (s : State) (a : Word), 0x3FFF < a.toNat →
    ((s.cart.bind fun c => c.mapper.cpuRead a) = none → busRead s a = (0x00, s) ∧ memPeek s a = 0x00) ∧
    ((s.cart.bind fun c => c.mapper.cpuWrite a) = none → ∀ v, busWrite s a v = s) ∧
    ((s.cart.bind fun c => c.mapper.cpuRead a) = none ↔ s.cart = none ∨ a.toNat < 0x8000) ∧
    ((s.cart.bind fun c => c.mapper.cpuWrite a) = none ↔ s.cart = none ∨ a.toNat < 0x8000)

/-- Mapper 0's claims and indexes on the CPU side and the video side, and the byte a claimed CPU read
returns (R72, R75, R76, R77). With 1 or 2 program banks, mapper 0 claims a CPU read or write exactly
at 0x8000 and above, with the address modulo 16384 or 32768 as index; a video read exactly below
0x2000, with the address as index; a video write there exactly with zero graphics banks. A
constructed cartridge has 1 or 2 program banks. A CPU read that a mapper claims with index i returns
program byte i and changes nothing. With one bank, 0x8000-0xBFFF and 0xC000-0xFFFF read the same
bytes. -/
def Obligations.MapperZeroTranslatesAsStated : Prop :=
  (∀ (prg chr : Byte) (a : Word), prg = 1 ∨ prg = 2 →
    let i := if 0x8000 ≤ a.toNat then some (a.toNat % (prg.toNat * 16384)) else none
    (Mapper.mapper0 prg chr).cpuRead a = i ∧ (Mapper.mapper0 prg chr).cpuWrite a = i) ∧
  (∀ (prg chr : Byte) (a : BitVec 14),
    (Mapper.mapper0 prg chr).chrRead a = (if a.toNat < 0x2000 then some a.toNat else none) ∧
    (Mapper.mapper0 prg chr).chrWrite a = (if a.toNat < 0x2000 ∧ chr = 0 then some a.toNat else none)) ∧
  (∀ (ps : Params) (image : Option (List Byte)) (c : Cartridge), construct ps image = .ok c →
    c.prgBanks = 1 ∨ c.prgBanks = 2) ∧
  (∀ (s : State) (c : Cartridge) (a : Word) (i : Nat), s.cart = some c → c.mapper.cpuRead a = some i →
    busRead s a = (c.prg.read i, s)) ∧
  ∀ (s : State) (c : Cartridge) (a : Word), s.cart = some c → c.mapper = .mapper0 1 c.chrBanks →
    0x8000 ≤ a.toNat → a.toNat < 0xC000 → memPeek s a = memPeek s (a + 0x4000)

/-- A claimed CPU write stores into the program bytes under store, and is dropped under discard (R73).
In every state with a cartridge whose program bytes are in canonical form, for every write v at an
address the mapper claims with index i: under store the program byte i becomes v, no other program
byte changes and nothing else does; under discard nothing changes. -/
def Obligations.ProgramWritesFollowThePolicy : Prop :=
  ∀ (s : State) (c : Cartridge) (a : Word) (v : Byte) (i : Nat), s.cart = some c → c.prg.wf = true →
    c.mapper.cpuWrite a = some i →
    (s.params.prgWritePolicy = .store → ∃ prg : Memory,
      busWrite s a v = { s with cart := some { c with prg := prg } } ∧
      ∀ k, prg.read k = if k = i then v else c.prg.read k) ∧
    (s.params.prgWritePolicy = .discard → busWrite s a v = s)

/-- A bus read changes state only at Status, Data and their mirrors, and a peek returns what it would
return (R69, R70, R267, 20_memory.md section 1). In every state and at every address: a read-only
peek returns the byte a read returns; if the read changes the state, the address lies in
0x2000-0x3FFF and is 2 or 7 modulo 8, and only the vertical-blank bit, the latch, the VRAM address,
the buffer and the model's own count of free values (log 9) can differ. -/
def Obligations.OnlyStatusAndDataReadsHaveSideEffects : Prop :=
  ∀ (s : State) (a : Word),
    (busRead s a).1 = memPeek s a ∧
    ((busRead s a).2 ≠ s → 0x2000 ≤ a.toNat ∧ a.toNat ≤ 0x3FFF ∧ (a.toNat % 8 = 2 ∨ a.toNat % 8 = 7)) ∧
    (busRead s a).2 = { s with vr := (busRead s a).2.vr } ∧ ReadEffects s.vr (busRead s a).2.vr

/-- A Status read returns status bits 7-5 and buffer bits 4-0, and clears the blank bit and the latch
(R257). In every state, at every CPU address in 0x2000-0x3FFF that is 2 modulo 8: the byte read has
its bits 7-5 from vr.status and its bits 4-0 from vr.buffer; afterwards bit 7 of vr.status and the
latch are 0 and nothing else has changed. -/
def Obligations.StatusReadClearsBlankAndLatch : Prop :=
  ∀ (s : State) (a : Word), 0x2000 ≤ a.toNat → a.toNat ≤ 0x3FFF → a.toNat % 8 = 2 →
    ∃ (r st : Byte), busRead s a = (r, { s with vr := { s.vr with status := st, latch := false } }) ∧
      (∀ k, r.getLsbD k = if k < 5 then s.vr.buffer.getLsbD k else s.vr.status.getLsbD k) ∧
      ∀ k, st.getLsbD k = if k = 7 then false else s.vr.status.getLsbD k

/-- Address writes go high byte first, and a Status read between them restarts the pair (R258). In every
state, at Address addresses a and b (0x2000-0x3FFF, 6 modulo 8): with the latch clear a write of v
replaces the high byte and sets the latch, with it set the low byte and clears it, and nothing else
changes; two writes of v and w from a clear latch give v:w; with a Status read between them the
second write replaces the high byte again. -/
def Obligations.TwoAddressWritesComposeTheVramAddress : Prop :=
  ∀ (s : State) (a b c : Word) (v w : Byte), 0x2000 ≤ a.toNat → a.toNat ≤ 0x3FFF → a.toNat % 8 = 6 →
    0x2000 ≤ b.toNat → b.toNat ≤ 0x3FFF → b.toNat % 8 = 6 →
    0x2000 ≤ c.toNat → c.toNat ≤ 0x3FFF → c.toNat % 8 = 2 →
    busWrite s a v = { s with vr := { s.vr with
      vramAddr := if s.vr.latch then word (hiByte s.vr.vramAddr) v else word v (loByte s.vr.vramAddr)
      latch := !s.vr.latch } } ∧
    (s.vr.latch = false →
      (busWrite (busWrite s a v) b w).vr.vramAddr = word v w ∧
      (busWrite (busWrite s a v) b w).vr.latch = false ∧
      (busWrite (busRead (busWrite s a v) c).2 b w).vr.vramAddr = word w (loByte s.vr.vramAddr) ∧
      (busWrite (busRead (busWrite s a v) c).2 b w).vr.latch = true)

/-- Data reads are buffered except for the palette, Data writes store, and both advance the address
(R259, R261, R263). In every state, at every CPU address in 0x2000-0x3FFF that is 7 modulo 8, with
va the VRAM address modulo 16384 and next the VRAM address plus 32 when Control bit 2 is 1 and plus
1 otherwise, modulo 65536. A read: from 0x3F00 up the byte read is the palette's and the buffer
takes it; below, the byte read is the old buffer and the buffer takes the video byte at va; the VRAM
address becomes next and nothing else changes but the model's own count of free values drawn (log
9), of which nothing is said. A write of v is a video write of v at va, after which the VRAM address
becomes next. -/
def Obligations.DataAccessesAreBufferedAndAdvance : Prop :=
  ∀ (s : State) (a : Word) (v : Byte), 0x2000 ≤ a.toNat → a.toNat ≤ 0x3FFF → a.toNat % 8 = 7 →
    let va := BitVec.ofNat 14 (s.vr.vramAddr.toNat % 16384)
    let u := videoWrite s va v
    ∃ (next : Word) (d : Nat), next.toNat = (s.vr.vramAddr.toNat + if s.vr.control.getLsbD 2 then 32 else 1) % 65536 ∧
      busRead s a = (if 0x3F00 ≤ va.toNat then
          (paletteEntry s.vr (paletteIndex va),
            { s with vr := { s.vr with buffer := paletteEntry s.vr (paletteIndex va), vramAddr := next, drawn := d } })
        else (s.vr.buffer, { s with vr := { s.vr with buffer := videoRead s va, vramAddr := next, drawn := d } })) ∧
      busWrite s a v = { u with vr := { u.vr with vramAddr := next } }

/-- Control and Mask store the byte; Status, OAM and Scroll writes are ignored; the write-only registers
read 0x00 (R252, R253, R254, R255, R256). In every state, at every CPU address in 0x2000-0x3FFF, by
the address modulo 8: a write at 0 replaces vr.control, at 1 vr.mask, and at 2, 3, 4, 5 changes
nothing; a read at 0, 1, 3, 4, 5, 6 returns 0x00 and changes nothing. Control's only effect is bit 2
and Mask's only effect is bit 0: states that differ in the other bits read every video address and
Data byte alike and advance alike. -/
def Obligations.WriteOnlyRegistersReadZeroAndOthersIgnoreWrites : Prop :=
  (∀ (s : State) (a : Word) (v : Byte), 0x2000 ≤ a.toNat → a.toNat ≤ 0x3FFF →
    (a.toNat % 8 = 0 → busWrite s a v = { s with vr := { s.vr with control := v } }) ∧
    (a.toNat % 8 = 1 → busWrite s a v = { s with vr := { s.vr with mask := v } }) ∧
    (a.toNat % 8 ∈ [2, 3, 4, 5] → busWrite s a v = s) ∧
    (a.toNat % 8 ∈ [0, 1, 3, 4, 5, 6] → busRead s a = (0x00, s))) ∧
  ∀ (s : State) (ctl msk : Byte), ctl.getLsbD 2 = s.vr.control.getLsbD 2 →
    msk.getLsbD 0 = s.vr.mask.getLsbD 0 →
    let u := { s with vr := { s.vr with control := ctl, mask := msk } }
    dataStep u.vr = dataStep s.vr ∧ dataByte u = dataByte s ∧ ∀ va, videoRead u va = videoRead s va

/-- The nametable cell of each mirroring mode, the palette aliases, and grayscale (R264, R265, R266,
60_exceptions.md section 5). NT(a) is, with o = a mod 4096 and q = o / 1024, byte o mod 1024 of
table q mod 2 (vertical), q / 2 (horizontal), 0 (single low) or 1 (single high), the mode being
horizontal with no cartridge; PAL(a) is a mod 32, less 16 at 16, 20, 24 and 28; a palette read
returns the entry, rounded down to a multiple of 16 when Mask bit 0 is set. (That table t byte i is
cell 1024 t + i of the model's nametable memory is the model's choice: log 13.) -/
def Obligations.NametablesAndPaletteAreMirroredAsStated : Prop :=
  (∀ a : BitVec 14,
    let o := a.toNat % 4096
    let q := o / 1024
    nametableIndex .vertical a = 1024 * (q % 2) + o % 1024 ∧
    nametableIndex .horizontal a = 1024 * (q / 2) + o % 1024 ∧
    nametableIndex .singleLow a = o % 1024 ∧
    nametableIndex .singleHigh a = 1024 + o % 1024) ∧
  (∀ s : State, mirroring s = match s.cart with | none => .horizontal | some c => c.mirror) ∧
  (∀ a : BitVec 14, paletteIndex a =
    if a.toNat % 32 ∈ [16, 20, 24, 28] then a.toNat % 32 - 16 else a.toNat % 32) ∧
  ∀ (vr : VideoRegs) (i : Nat), (paletteEntry vr i).toNat =
    if vr.mask.getLsbD 0 then (vr.palette.read i).toNat / 16 * 16 else (vr.palette.read i).toNat

/-- Video addresses reach graphics, nametables and palette in the stated order, and read back as written
(R74, R76, R77, R262, R264, R265, R266, 60_exceptions.md section 5). In every state, for every video
address va and byte v: from 0x2000 to 0x3EFF the nametable cell NT(va) is read and written, from
0x3F00 the palette entry PAL(va); below 0x2000 with no cartridge a read returns 0x00 and a write is
discarded, and with a cartridge whose graphics bytes reach va a read returns graphics byte va; with
mapper 0 a write stores it exactly with zero graphics banks, and is discarded otherwise.
(CHR_RAM_SIZE may be smaller than the claimed range: past the end of the graphics bytes a write
stores nothing, and nothing is said of the byte read, a free value: log 9.) From every state that
meets the invariant, with grayscale off: a read after a write of v returns v if the address is
0x2000 or above, or lies in graphics RAM; at every other address the write changes nothing; a video
address whose read reaches another cell reads as before. -/
def Obligations.VideoMemoryReturnsWhatWasWritten : Prop :=
  (∀ (s : State) (va : BitVec 14) (v : Byte),
    (0x2000 ≤ va.toNat → va.toNat ≤ 0x3EFF →
      let k := nametableIndex (mirroring s) va
      videoRead s va = s.vr.nametable.read k ∧
      videoWrite s va v = { s with vr := { s.vr with nametable := s.vr.nametable.write k v } }) ∧
    (0x3F00 ≤ va.toNat →
      let k := paletteIndex va
      videoRead s va = paletteEntry s.vr k ∧
      videoWrite s va v = { s with vr := { s.vr with palette := s.vr.palette.write k v } }) ∧
    (va.toNat < 0x2000 → s.cart = none → videoRead s va = 0x00 ∧ videoWrite s va v = s) ∧
    ∀ c, va.toNat < 0x2000 → s.cart = some c →
      let size := if c.chrBanks = 0 then s.params.chrRamSize else c.chrBanks.toNat * 8192
      (va.toNat < size → videoRead s va = c.chr.read va.toNat) ∧
      (c.mapper = .mapper0 c.prgBanks c.chrBanks → videoWrite s va v =
        if c.chrBanks = 0 ∧ va.toNat < size then
          { s with cart := some { c with chr := c.chr.write va.toNat v } }
        else s)) ∧
  ∀ (s : State) (va vb : BitVec 14) (v : Byte), Inv s → s.vr.mask.getLsbD 0 = false →
    let writable := 0x2000 ≤ va.toNat ∨
      ∃ c, s.cart = some c ∧ c.chrBanks = 0 ∧ va.toNat < s.params.chrRamSize
    (writable → videoRead (videoWrite s va v) va = v) ∧
    (¬ writable → videoWrite s va v = s) ∧
    (videoReadTarget s vb ≠ videoWriteTarget s va → videoRead (videoWrite s va v) vb = videoRead s vb)

/-- IRQ and NMI entry stack PC and P with B clear, set I, and load the vector (R245, R244, R243). In
every state: IRQ entry stores PC, high byte first, and P with B = 0 and U = 1 and the old I in the
three work-RAM cells from 0x0100 + SP down, lowers SP by 3, sets I, loads PC from 0xFFFE low byte
first, leaves 7 cycles, and changes nothing else. NMI entry clears nmi_pending and does the same
with PC from NMI_VECTOR and 8 cycles: after the pushes, one bus read at the vector gives the low
byte, then one at the next address modulo 65536, in the state the first leaves, the high byte, each
with its side effects. -/
def Obligations.InterruptEntryStacksPcAndFlags : Prop :=
  ∀ s : State, ∃ st q, FlagsAfter s.p st [(.b, false), (.u, true)] ∧ FlagsAfter st q [(.i, true)] ∧
    let w := ((s.wram.write (stackCell s.sp) (hiByte s.pc)).write (stackCell (s.sp - 1))
      (loByte s.pc)).write (stackCell (s.sp - 2)) st
    let u : State := { s with nmiPending := false, wram := w, sp := s.sp - 3, p := q }
    irqEntry s = { s with
      wram := w, sp := s.sp - 3, p := q, cycles := 7, pc := word (memPeek s 0xFFFF) (memPeek s 0xFFFE) } ∧
    let lo := busRead u s.params.nmiVector
    let hi := busRead lo.2 (BitVec.ofNat 16 ((s.params.nmiVector.toNat + 1) % 65536))
    nmiEntry s = { hi.2 with pc := word hi.1 lo.1, cycles := 8 }

/-- At a boundary a pending NMI wins, then an unmasked IRQ, then the instruction at PC, and only at a
boundary (R242). In every state: with nmi_pending, Boundary() does the NMI entry; otherwise with
irq_line and P.I = 0 the IRQ entry; otherwise it fetches and executes the instruction at PC. After a
reset and with nothing scheduled, a step at an instruction boundary is Boundary(), after which the
clock takes one cycle off and the pulse is counted; a step that is not at a boundary takes no
interrupt and executes nothing: only the cycles and the pulse count change. -/
def Obligations.BoundaryTakesNmiThenIrqThenTheInstruction : Prop :=
  (∀ s : State,
    (s.nmiPending = true → boundary s = .next (nmiEntry s)) ∧
    (s.nmiPending = false → s.irqLine = true → flag .i s.p = false → boundary s = .next (irqEntry s)) ∧
    (s.nmiPending = false → (s.irqLine = false ∨ flag .i s.p = true) →
      boundary s = exec (fetchInstr s).1 (fetchInstr s).2)) ∧
  (∀ s : State, AtBoundary s → step s = afterNext
    (fun t => { t with cycles := t.cycles - 1, pulseCount := t.pulseCount + 1 }) (boundary s)) ∧
  ∀ s : State, s.wasReset = true → s.schedule = [] → ¬ AtBoundary s → ∃ c,
    step s = .next { s with cycles := c, pulseCount := s.pulseCount + 1 }

/-- RTI right after an IRQ or NMI entry restores PC, P and SP (R247, R229, R245, 60_exceptions.md
section 3). From every state that meets the invariant after a reset: executing RTI in the state an
IRQ or NMI entry leaves answers a next state whose PC, P and SP are those before the entry, whatever
the stack pointer and the vector are. -/
def Obligations.RtiUndoesAnInterruptEntry : Prop :=
  ∀ s : State, Inv s → s.wasReset = true → ∀ e, (e = irqEntry s ∨ e = nmiEntry s) →
    ∃ t, exec .rti e = .next t ∧ t.pc = s.pc ∧ t.p = s.p ∧ t.sp = s.sp ∧
      t.a = s.a ∧ t.x = s.x ∧ t.y = s.y

/-- RTS returns to the byte after JSR; PLA gives back what PHA pushed, PLP what PHP pushed (R191, R210,
R211, R192, R193, R194, R195). In every state whose work RAM is in canonical form: RTS executed
anywhere after JSR, with SP and work RAM as JSR left them, sets PC to the byte after the JSR and
restores SP; PLA after PHA restores A and SP; PLP after PHP restores SP and P, but for B and U,
which become 0 and 1. -/
def Obligations.PullsUndoPushes : Prop :=
  ∀ s : State, s.wram.wf = true →
    (∀ (w : Word) (t u : State), exec (.jsr w) s = .next t → u.wram = t.wram → u.sp = t.sp →
      ∃ r, exec .rts u = .next r ∧ r.pc = s.pc ∧ r.sp = s.sp) ∧
    (∀ t u : State, exec .pha s = .next t → u.wram = t.wram → u.sp = t.sp →
      ∃ r, exec .pla u = .next r ∧ r.a = s.a ∧ r.sp = s.sp) ∧
    ∀ t u : State, exec .php s = .next t → u.wram = t.wram → u.sp = t.sp →
      ∃ r, exec .plp u = .next r ∧ FlagsAfter s.p r.p [(.b, false), (.u, true)] ∧ r.sp = s.sp

/-- ADC and SBC are binary whatever P.D holds, and PHP and the entries stack it (R28). For every mode,
state and value d: ADC and SBC executed with P.D set to d answer the state they answer otherwise,
but for P.D, which stays d. PHP stores the live D in its byte, and so do BRK, IRQ entry and NMI
entry in theirs. -/
def Obligations.DecimalFlagHasNoEffectOnArithmetic : Prop :=
  (∀ (m : Mode) (s : State) (d : Bool), ∀ i ∈ [Instr.adc m, .sbc m],
    ∃ t, exec i s = .next t ∧
      exec i { s with p := setFlag .d d s.p } = .next { t with p := setFlag .d d t.p } ∧
      flag .d t.p = flag .d s.p) ∧
  ∀ s : State, s.wram.wf = true →
    (∃ t, exec .php s = .next t ∧ flag .d (t.wram.read (stackCell s.sp)) = flag .d s.p) ∧
    (∃ t, exec .brk s = .next t ∧ flag .d (t.wram.read (stackCell (s.sp - 2))) = flag .d s.p) ∧
    flag .d ((irqEntry s).wram.read (stackCell (s.sp - 2))) = flag .d s.p ∧
    flag .d ((nmiEntry s).wram.read (stackCell (s.sp - 2))) = flag .d s.p

/-- Bus.Reset() sets the stated values, loads PC from 0xFFFC, and keeps every memory (R49, R300, R301,
70_reset_and_hazards.md section 1). From every state, the reset gives A = X = Y = 0, SP = 0xFD, P =
0x20, cycles = 8, no pending NMI, pulse_count = 0, every video-register field 0, PC the little-
endian word at 0xFFFC, and changes nothing else: work RAM, nametables, palette, the cartridge and
irq_line are as before. (The model's choices, not the spec's: its own mark that a reset happened is
set, log 6; the internal opcode, fetched, ea and rel are kept, log 4, and so is its own count of
free values, log 9.) -/
def Obligations.ResetLeavesTheStatedState : Prop :=
  ∀ s : State, busReset s = { s with
    a := 0x00, x := 0x00, y := 0x00, sp := 0xFD, p := 0x20, cycles := 8, nmiPending := false
    pulseCount := 0, wasReset := true, pc := word (memPeek s 0xFFFD) (memPeek s 0xFFFC)
    vr := { s.vr with
      control := 0x00, mask := 0x00, status := 0x00, latch := false, vramAddr := 0x0000, buffer := 0x00 } }

/-- A pulse clocks the CPU on every third count; a clock starts something at zero and always takes one
cycle off (R270, R310). In every state after a reset with nothing scheduled: a pulse whose count is
no multiple of 3 changes only the count; on a multiple of 3 with cycles left it also takes one off;
on a multiple of 3 with none left it does the boundary and takes one off. The count always grows by
1. -/
def Obligations.CpuClocksOnEveryThirdPulseAndCountsDown : Prop :=
  ∀ s : State, s.wasReset = true → s.schedule = [] →
    (s.pulseCount % 3 ≠ 0 → step s = .next { s with pulseCount := s.pulseCount + 1 }) ∧
    (s.pulseCount % 3 = 0 → s.cycles ≠ 0 →
      step s = .next { s with cycles := s.cycles - 1, pulseCount := s.pulseCount + 1 }) ∧
    (s.pulseCount % 3 = 0 → s.cycles = 0 → step s = afterNext
      (fun t => { t with cycles := t.cycles - 1, pulseCount := t.pulseCount + 1 }) (boundary s))

/-- An instruction or entry of cost n is n CPU clocks, 3n pulses, to the next boundary (R310, R270,
R272, R313, 70_reset_and_hazards.md section 3). From every state at an instruction boundary whose
boundary answers a next state t of cost n = t.cycles: n is at least 2 and at most 8, running the
machine for 3n steps gives exactly t with no cycles left and 3n pulses more counted, which is again
at a boundary; at no smaller positive number of steps is the machine at a boundary. -/
def Obligations.AnInstructionOccupiesExactlyItsCost : Prop :=
  ∀ s t : State, AtBoundary s → boundary s = .next t →
    let u : State := { t with cycles := 0, pulseCount := s.pulseCount + 3 * t.cycles }
    2 ≤ t.cycles ∧ t.cycles ≤ 8 ∧ runFor (3 * t.cycles) s = .next u ∧ AtBoundary u ∧
      ∀ k r, 0 < k → k < 3 * t.cycles → runFor k s = .next r → ¬ AtBoundary r

/-- After a reset the first boundary comes at CPU clock 8, pulse 24, and nothing happens before (R304).
From the state a reset leaves, with nothing scheduled, 24 steps only count the pulses and use up the
8 cycles; the state is then at a boundary, and at no earlier step. -/
def Obligations.ResetIsFollowedByEightIdleClocks : Prop :=
  ∀ s : State, s.schedule = [] →
    let r := busReset s
    runFor 24 r = .next { r with cycles := 0, pulseCount := 24 } ∧
    AtBoundary { r with cycles := 0, pulseCount := 24 } ∧
    ∀ k t, k < 24 → runFor k r = .next t → ¬ AtBoundary t

/-- At a boundary with no interrupt, a step executes the instruction the bytes at PC decode to (R100,
R116, R82, R315, 30_encoding.md section 4). In every state at a boundary with no interrupt: if the
bytes peeked at PC, PC + 1, PC + 2 decode to an instruction i, and the bytes i occupies lie outside
the video-register window, the step is exec of i in the state with PC moved past i, the opcode byte
recorded, P.U = 1 and the base cost charged, then one cycle taken off and the pulse counted.
Wherever the bytes lie, the register window included, the step is exec of the instruction the bytes
read decode to: the opcode is one bus read at PC, each operand byte one bus read at the next address
in the state the read before it leaves, with its side effects, and as many bytes are read as the
instruction has. -/
def Obligations.StepRunsTheDecodedInstruction : Prop :=
  ∀ s : State, AtBoundary s → NoInterrupt s →
    let clocked : Result → Result :=
      afterNext fun t => { t with cycles := t.cycles - 1, pulseCount := t.pulseCount + 1 }
    let op := busRead s s.pc
    let s0 := { op.2 with
      pc := s.pc + 1, opcode := op.1, p := setFlag .u true s.p, cycles := (rowOf op.1).base }
    let b1 := busRead s0 (s.pc + 1)
    let s1 := { b1.2 with pc := s.pc + 2 }
    let b2 := busRead s1 (s.pc + 2)
    let s2 := { b2.2 with pc := s.pc + 3 }
    step s = clocked (exec (fetchInstr s).1 (fetchInstr s).2) ∧
    (∀ i, decode [op.1] = .ok (i, []) → fetchInstr s = (i, s0)) ∧
    (∀ i, decode [op.1, b1.1] = .ok (i, []) → fetchInstr s = (i, s1)) ∧
    (∀ i, decode [op.1, b1.1, b2.1] = .ok (i, []) → fetchInstr s = (i, s2)) ∧
    ∀ (i : Instr) (rest : List Byte),
      decode [memPeek s s.pc, memPeek s (s.pc + 1), memPeek s (s.pc + 2)] = .ok (i, rest) →
      (∀ k : Nat, k < (encode i).length → plainAddr s (s.pc + BitVec.ofNat 16 k)) →
      step s = clocked (exec i { s with
        pc := s.pc + BitVec.ofNat 16 (encode i).length, opcode := memPeek s s.pc
        p := setFlag .u true s.p, cycles := (rowOf (memPeek s s.pc)).base })

/-- Decoding the bytes of any well-formed instruction gives it back, with every operand (R100, R117,
R118, R119, 30_encoding.md section 5). For every well-formed instruction, with every operand at
every value, and any bytes after it: decoding its encoding followed by those bytes gives the
instruction and those bytes. -/
def Obligations.DecodeInvertsEncode : Prop :=
  ∀ (i : Instr) (rest : List Byte), i.WellFormed → decode (encode i ++ rest) = .ok (i, rest)

/-- Decoding is total but for missing bytes, gives well-formed instructions only, and loses no bit
(R100, R117, R120, 30_encoding.md section 6). For every list of bytes: if it has three bytes or
more, it decodes; whenever it decodes to an instruction and a rest, the instruction is well-formed
and its encoding followed by the rest is the list. -/
def Obligations.EncodeInvertsDecode : Prop :=
  ∀ bs : List Byte,
    (3 ≤ bs.length → ∃ i rest, decode bs = .ok (i, rest)) ∧
    ∀ i rest, decode bs = .ok (i, rest) → i.WellFormed ∧ encode i ++ rest = bs

/-- Bytes written out from the opcode map decode to the instructions they stand for (R118, R119, R122,
30_encoding.md section 5). One instruction of each family, written out from the map of R118 and the
operand forms of R122, and an unofficial byte, decode to the instruction they stand for. -/
def Obligations.SampleBytesDecodeAsTheMapSays : Prop :=
  decode [0xA9, 0x05] = .ok (.lda (.imm 0x05), []) ∧
  decode [0x85, 0x10] = .ok (.sta (.zp0 0x10), []) ∧
  decode [0x7D, 0xFF, 0x00] = .ok (.adc (.abx 0x00FF), []) ∧
  decode [0x0A] = .ok (.asl .imp, []) ∧
  decode [0x48] = .ok (.pha, []) ∧
  decode [0x6C, 0xFF, 0x02] = .ok (.jmp (.ind 0x02FF), []) ∧
  decode [0xD0, 0xFC] = .ok (.bne 0xFC, []) ∧
  decode [0x20, 0x00, 0x90] = .ok (.jsr 0x9000, []) ∧
  decode [0x00, 0xEA] = .ok (.brk, [0xEA]) ∧
  decode [0x04, 0x10] = .ok (.unofficial 0x04, [0x10])

/-- Every step keeps canonical memories within their sizes, a well-built cartridge, P.U = 1, P.B = 0,
Status bits 4-0 = 0 (R26, R27, R39, R45, R46, R47, R80). From every state that meets the invariant,
whatever is scheduled, if the step answers a next state, that state meets the invariant. -/
def Obligations.EveryStepKeepsTheInvariant : Prop :=
  ∀ s t : State, Inv s → step s = .next t → Inv t

/-- State.reset meets the invariant and is Bus.Reset() of a powered-on machine with no cartridge (R26,
R27, R39, R49, R302, R303, 70_reset_and_hazards.md section 1). State.reset meets the invariant; so
does a machine powered on from any state with parameters whose memory contents fit. Powering on with
any parameters keeps them, fills work RAM, nametables and palette with INIT_MEMORY's contents,
inserts no cartridge and counts as no reset (log 6). For every state, whatever its registers and
video registers hold: powering on with the default parameters (memories all 0x00, the model's
choice: log 1; no cartridge: log 3) and resetting gives State.reset, once irq_line is 0 (log 5), the
internal opcode, fetched, ea and rel are 0 (log 4) and no free value is drawn (log 9); its PC is
0x0000. -/
def Obligations.ResetStateMeetsTheInvariant : Prop :=
  Inv State.reset ∧ (∀ (ps : Params) (s : State), ParamsWf ps → Inv (powerOn ps s)) ∧
  State.reset.pc = 0x0000 ∧
  (∀ (ps : Params) (s : State),
    (powerOn ps s).wram = ps.init.wram ∧ (powerOn ps s).vr.nametable = ps.init.nametable ∧
    (powerOn ps s).vr.palette = ps.init.palette ∧ (powerOn ps s).cart = none ∧
    (powerOn ps s).params = ps ∧ (powerOn ps s).wasReset = false) ∧
  ∀ (s : State) (vr : VideoRegs), vr.drawn = 0 → busReset (powerOn Params.default
      { s with irqLine := false, opcode := 0x00, fetched := 0x00, ea := 0x0000, rel := 0x0000, vr := vr }) = State.reset

/-- After a reset, with the nop policy and no insertion due, every step answers a next state (R119,
R240, R274, 60_exceptions.md section 1). From every state after a reset under the nop policy whose
next scheduled action is not an insertion, whatever the bytes at PC are, the step answers a next
state: it neither faults nor refuses. -/
def Obligations.TheEngineNeverHalts : Prop :=
  ∀ s : State, s.wasReset = true → s.params.illegalPolicy = .nop →
    (∀ image rest, s.schedule ≠ .insert image :: rest) → ∃ t, step s = .next t

/-- Each scheduled action, a pulse among them, does exactly what it says, in order (R33, R50, R87, R241,
R268, R270, R271, R310, R318, 60_exceptions.md section 6). In every state whose oldest scheduled
action is: reset, the step is Bus.Reset(); an NMI request, nmi_pending is set; a level, irq_line
takes it; a status event, Status bits 7-5 take its bits and bits 4-0 stay; a debug read, the step is
that bus read (its byte is not kept in the state: log 15); an insertion into a machine without a
cartridge, the constructed cartridge is inserted and nothing else changes, or the load error is the
fault; a pulse after a reset, the step is that pulse: off a multiple of 3 only the count grows, on
it a cycle is taken off, after the boundary is done when none was left. The action leaves the
schedule, the rest stay. (The schedule that holds the total order is the model's own: log 2. A pulse
before the first reset is refused: log 6; a second insertion is refused: log 8.) -/
def Obligations.HostAndEnvironmentActionsDoWhatTheySay : Prop :=
  ∀ (s : State) (act : HostAction) (rest : List HostAction), s.schedule = act :: rest →
    let u : State := { s with schedule := rest }
    (act = .reset → step s = .next (busReset u)) ∧
    (act = .nmiRequest → step s = .next { u with nmiPending := true }) ∧
    (∀ level, act = .irqLine level → step s = .next { u with irqLine := level }) ∧
    (∀ bits, act = .statusEvent bits → ∃ st : Byte,
      step s = .next { u with vr := { u.vr with status := st } } ∧
      ∀ k, st.getLsbD k = if k < 5 then s.vr.status.getLsbD k else bits.getLsbD (k - 5)) ∧
    (∀ a, act = .debugRead a → step s = .next (busRead u a).2) ∧
    (∀ image, act = .insert image → s.cart = none →
      (∀ c, construct s.params image = .ok c → step s = .next { u with cart := some c }) ∧
      ∀ e, construct s.params image = .error e → step s = .fault (.loadError e)) ∧
    (∀ image c, act = .insert image → s.cart = some c → step s = .refused .secondInsertion) ∧
    (act = .pulse → s.wasReset = false → step s = .refused .pulseBeforeReset) ∧
    (act = .pulse → s.wasReset = true →
      (s.pulseCount % 3 ≠ 0 → step s = .next { u with pulseCount := s.pulseCount + 1 }) ∧
      (s.pulseCount % 3 = 0 → s.cycles ≠ 0 →
        step s = .next { u with cycles := s.cycles - 1, pulseCount := s.pulseCount + 1 }) ∧
      (s.pulseCount % 3 = 0 → s.cycles = 0 → step s = afterNext
        (fun t => { t with cycles := t.cycles - 1, pulseCount := t.pulseCount + 1 }) (boundary u)))

/-- A constructed cartridge holds the header's fields and the image's bytes (R79, R84, R85, R86,
20_memory.md section 4). For every image of bytes that construction accepts: the bank counts are
bytes 4 and 5, the mapper id is byte 7's high nibble over byte 6's and is 0, mirroring is vertical
exactly when byte 6 bit 0 is set, the mapper is mapper 0 with the bank counts, program byte k is the
image's byte after the header and, if byte 6 bit 2 is set, the 512-byte trainer, graphics byte k
follows the program bytes, or is INIT_MEMORY's with zero graphics banks, where CHR_RAM_SIZE, of any
value, says how many graphics bytes there are. -/
def Obligations.ConstructionReadsTheImage : Prop :=
  ∀ (ps : Params) (image : List Byte) (c : Cartridge), construct ps (some image) = .ok c →
    let h := fun k => image.getD k 0
    let start := 16 + if (h 6).getLsbD 2 then 512 else 0
    let prgLen := (h 4).toNat * 16384
    c.prgBanks = h 4 ∧ c.chrBanks = h 5 ∧ c.mapperId = 0 ∧
    (h 7).toNat / 16 * 16 + (h 6).toNat / 16 = 0 ∧
    c.mirror = (if (h 6).getLsbD 0 then .vertical else .horizontal) ∧
    c.mapper = .mapper0 (h 4) (h 5) ∧
    (∀ k, k < prgLen → c.prg.read k = h (start + k)) ∧
    (h 5 = 0 → c.chr = ps.init.chrRam) ∧
    chrSize ps c = (if h 5 = 0 then ps.chrRamSize else (h 5).toNat * 8192) ∧
    ∀ k, h 5 ≠ 0 → k < (h 5).toNat * 8192 → c.chr.read k = h (start + prgLen + k)

/-- Construction fails exactly on a missing file, a short header, an unknown mapper, a bad bank count or
short data (R85, R79, R84, 20_memory.md section 4). For every parameters, whatever CHR_RAM_SIZE is,
and every image file: construction answers a cartridge exactly when the file exists, has a 16-byte
header, mapper id 0, 1 or 2 program banks, and at least the program and graphics bytes it declares
after the header and the trainer (that an image may be longer is the model's choice: log 10). A
missing file, a header shorter than 16 bytes and an unrecognised mapper id are load errors of those
names; that an unrecognised id is the error reported whatever the bank count and the data length are
is the model's choice, for the spec gives load errors no order (log 10). -/
def Obligations.ConstructionFailsExactlyOnLoadErrors : Prop :=
  ∀ (ps : Params) (image : Option (List Byte)),
    ((∃ c, construct ps image = .ok c) ↔ ∃ bytes, image = some bytes ∧
      let h := fun k => bytes.getD k 0
      let start := 16 + if (h 6).getLsbD 2 then 512 else 0
      16 ≤ bytes.length ∧ (h 7).toNat / 16 * 16 + (h 6).toNat / 16 = 0 ∧
      ((h 4).toNat = 1 ∨ (h 4).toNat = 2) ∧
      start + (h 4).toNat * 16384 + (h 5).toNat * 8192 ≤ bytes.length) ∧
    (image = none → construct ps image = .error .missingFile) ∧
    ∀ bytes, image = some bytes →
      (bytes.length < 16 → construct ps image = .error .shortHeader) ∧
      ∀ id, 16 ≤ bytes.length → id = headerMapperId (bytes.getD 6 0) (bytes.getD 7 0) → id ≠ 0 →
        construct ps image = .error (.unsupportedMapper id)

/-- Disassembly gives one line per instruction, in order, from start to stop, and each line is as the
grammar says (R100, R121, R122, R123, 30_encoding.md section 7). For every state and range: with
start above stop there is no line; otherwise the first line is that of the instruction at start
modulo 65536, and the rest is the disassembly from the byte after it. (That the map of lines is a
list in reading order is the model's choice: log 15.) The line at an address is of the mnemonic and
mode of the byte peeked there, with the operand bytes peeked after it: the address, the mnemonic,
the operand text and the mode tag in braces, separated by single spaces, and nothing between
mnemonic and tag in IMP. The operand texts are those of R122, with upper-case hexadecimal digits,
the branch target being the line's address + 2 + the signed displacement modulo 65536; mnemonics and
tags are their letters. -/
def Obligations.DisassemblyWalksTheRange : Prop :=
  (∀ (s : State) (start stop : Nat), disassemble s start stop =
    if stop < start then [] else
      let a := BitVec.ofNat 16 start
      (a, lineAt s a) :: disassemble s (start + 1 + (rowOf (memPeek s a)).tag.operands) stop) ∧
  (∀ (s : State) (a : Word), lineAt s a = lineText a (rowOf (memPeek s a)).mnem
    (.ofBytes (rowOf (memPeek s a)).tag (memPeek s (a + 1)) (memPeek s (a + 2)))) ∧
  (∀ (a : Word) (n : Mnem), lineText a n .imp =
    '$' :: hex4 a ++ ": ".toList ++ Mnem.text n ++ [' ', Char.ofNat 0x7B] ++ "IMP".toList ++
      [Char.ofNat 0x7D]) ∧
  (∀ (a : Word) (n : Mnem) (m : Mode), m ≠ .imp → lineText a n m =
    '$' :: hex4 a ++ ": ".toList ++ Mnem.text n ++ " ".toList ++ operandText a m ++
      [' ', Char.ofNat 0x7B] ++ ModeTag.text m.tag ++ [Char.ofNat 0x7D]) ∧
  (∀ (a : Word) (b : Byte) (w : Word),
    operandText a (.imm b) = "#$".toList ++ hex2 b ∧
    operandText a (.zp0 b) = "$".toList ++ hex2 b ∧
    operandText a (.zpx b) = "$".toList ++ hex2 b ++ ", X".toList ∧
    operandText a (.zpy b) = "$".toList ++ hex2 b ++ ", Y".toList ∧
    operandText a (.abs w) = "$".toList ++ hex4 w ∧
    operandText a (.abx w) = "$".toList ++ hex4 w ++ ", X".toList ∧
    operandText a (.aby w) = "$".toList ++ hex4 w ++ ", Y".toList ∧
    operandText a (.ind w) = "($".toList ++ hex4 w ++ ")".toList ∧
    operandText a (.izx b) = "($".toList ++ hex2 b ++ ", X)".toList ∧
    operandText a (.izy b) = "($".toList ++ hex2 b ++ "), Y".toList ∧
    operandText a (.rel b) = "$".toList ++ hex2 b ++ " [$".toList ++
      hex4 (BitVec.ofInt 16 (a.toNat + 2 + b.toInt)) ++ "]".toList) ∧
  (∀ digit : Nat → Char, (digit = fun k => "0123456789ABCDEF".toList.getD k ' ') →
    (∀ b : Byte, hex2 b = [digit (b.toNat / 16), digit (b.toNat % 16)]) ∧
    ∀ w : Word, hex4 w = [digit (w.toNat / 4096), digit (w.toNat / 256 % 16), digit (w.toNat / 16 % 16),
      digit (w.toNat % 16)]) ∧
  (∀ p ∈ [
      (Mnem.adc, "ADC"), (.sbc, "SBC"), (.and, "AND"), (.ora, "ORA"), (.eor, "EOR"), (.bit,
      "BIT"), (.asl, "ASL"), (.lsr, "LSR"), (.rol, "ROL"), (.ror, "ROR"), (.cmp, "CMP"),
      (.cpx, "CPX"), (.cpy, "CPY"), (.inc, "INC"), (.dec, "DEC"), (.inx, "INX"), (.iny,
      "INY"), (.dex, "DEX"), (.dey, "DEY"), (.lda, "LDA"), (.ldx, "LDX"), (.ldy, "LDY"),
      (.sta, "STA"), (.stx, "STX"), (.sty, "STY"), (.tax, "TAX"), (.tay, "TAY"), (.txa,
      "TXA"), (.tya, "TYA"), (.tsx, "TSX"), (.txs, "TXS"), (.php, "PHP"), (.plp, "PLP"),
      (.pha, "PHA"), (.pla, "PLA"), (.jmp, "JMP"), (.bpl, "BPL"), (.bmi, "BMI"), (.bvc,
      "BVC"), (.bvs, "BVS"), (.bcc, "BCC"), (.bcs, "BCS"), (.bne, "BNE"), (.beq, "BEQ"),
      (.jsr, "JSR"), (.rts, "RTS"), (.clc, "CLC"), (.sec, "SEC"), (.cli, "CLI"), (.sei,
      "SEI"), (.cld, "CLD"), (.sed, "SED"), (.clv, "CLV"), (.brk, "BRK"), (.rti, "RTI"),
      (.nop, "NOP"), (.unofficial, "???")],
    Mnem.text p.1 = p.2.toList) ∧
  ∀ p ∈ [
      (ModeTag.imp, "IMP"), (.imm, "IMM"), (.zp0, "ZP0"), (.zpx, "ZPX"), (.zpy, "ZPY"),
      (.abs, "ABS"), (.abx, "ABX"), (.aby, "ABY"), (.ind, "IND"), (.izx, "IZX"), (.izy,
      "IZY"), (.rel, "REL")],
    ModeTag.text p.1 = p.2.toList
end

