-- ==== Sys2Proof/Laws/Decode.lean ====
section
/-! SUPPORT. Facts of the opcode table, and the byte order of two-byte operands. -/

namespace Sys2Proof

theorem rowOf_op (op : Byte) : (rowOf op).op = op := by
  revert op
  decide +kernel

/-- Every entry costs at least 2 and at most 7 (70_reset_and_hazards.md R310). -/
theorem rowOf_base (op : Byte) : 2 ≤ (rowOf op).base ∧ (rowOf op).base ≤ 7 := by
  revert op
  decide +kernel

theorem ModeTag.operands_le (t : ModeTag) : t.operands ≤ 2 := by cases t <;> decide

/-- Every official entry is found under its own opcode byte. -/
theorem rowOf_official : ∀ r ∈ officialRows, rowOf r.op = r := by decide +kernel

/-- A mnemonic's opcode for a mode is the byte whose entry names both. -/
theorem rowOf_opcodeOf {n : Mnem} {t : ModeTag} {op : Byte} (h : opcodeOf n t = some op) :
    (rowOf op).mnem = n ∧ (rowOf op).tag = t := by
  simp only [opcodeOf, Option.map_eq_some_iff] at h
  obtain ⟨r, hr, rfl⟩ := h
  have hp := List.find?_some hr
  rw [rowOf_official r (List.mem_of_find?_eq_some hr)]
  simpa using hp

/-- A bit of `hi:lo`. -/
theorem getLsbD_word (hi lo : Byte) (i : Nat) :
    (word hi lo).getLsbD i = if i < 8 then lo.getLsbD i else hi.getLsbD (i - 8) := by
  unfold word
  by_cases h : i < 8
  · simp [h, show i < 16 by omega]
  · have hlo : lo.getLsbD i = false := BitVec.getLsbD_of_ge lo i (by omega)
    by_cases h16 : i < 16
    · simp [h, h16, hlo]
    · simp [h, h16, BitVec.getLsbD_of_ge hi (i - 8) (by omega)]

@[simp] theorem loByte_word (hi lo : Byte) : loByte (word hi lo) = lo := by
  apply BitVec.eq_of_getLsbD_eq
  intro i hi
  simp [loByte, getLsbD_word, hi]

@[simp] theorem hiByte_word (hi lo : Byte) : hiByte (word hi lo) = hi := by
  apply BitVec.eq_of_getLsbD_eq
  intro i hi
  simp [hiByte, getLsbD_word, hi]

@[simp] theorem word_hiByte_loByte (w : Word) : word (hiByte w) (loByte w) = w := by
  apply BitVec.eq_of_getLsbD_eq
  intro i hi
  rw [getLsbD_word]
  split
  · simp_all [loByte]
  · simp [hiByte, show i - 8 < 8 by omega, show 8 + (i - 8) = i by omega]

theorem loByte_toNat (w : Word) : (loByte w).toNat = w.toNat % 256 := by
  simp [loByte, BitVec.extractLsb'_toNat]

theorem hiByte_toNat (w : Word) : (hiByte w).toNat = w.toNat / 256 := by
  have := w.isLt
  simp [hiByte, BitVec.extractLsb'_toNat, Nat.shiftRight_eq_div_pow]
  omega

theorem word_toNat (hi lo : Byte) : (word hi lo).toNat = 256 * hi.toNat + lo.toNat := by
  have h := hiByte_toNat (word hi lo)
  have l := loByte_toNat (word hi lo)
  rw [hiByte_word] at h
  rw [loByte_word] at l
  omega

/-- A mode made of its own tag and bytes is the mode. -/
theorem Mode.ofBytes_bytes (m : Mode) (b1 b2 : Byte) :
    Mode.ofBytes m.tag (m.bytes.getD 0 b1) (m.bytes.getD 1 b2) = m := by
  cases m <;> simp [Mode.ofBytes, Mode.tag, Mode.bytes]

/-- Bytes that decode to an instruction with no rest are its opcode byte and exactly its operand bytes. -/
theorem decode_whole {op : Byte} {bs : List Byte} {i : Instr} (h : decode (op :: bs) = .ok (i, [])) :
    (rowOf op).tag.operands = bs.length ∧ i = .ofBytes op (bs.getD 0 0) (bs.getD 1 0) := by
  simp only [decode] at h
  have h2 := (rowOf op).tag.operands_le
  rcases hn : (rowOf op).tag.operands with _ | _ | _ | n
  · rw [hn] at h; rcases bs with _ | ⟨a, bs⟩ <;> simp_all
  · rw [hn] at h; rcases bs with _ | ⟨a, _ | ⟨b, bs⟩⟩ <;> simp_all
  · rw [hn] at h; rcases bs with _ | ⟨a, _ | ⟨b, _ | ⟨c, bs⟩⟩⟩ <;> simp_all
  · omega

theorem Mode.bytes_length (m : Mode) : m.bytes.length = m.tag.operands := by
  cases m <;> rfl

end Sys2Proof
end

