-- ==== Sys2Proof/Laws/Flags.lean ====
section
/-! SUPPORT. What each flag computation leaves in each flag. -/

namespace Sys2Proof.Machine

theorem Flag.bit_inj (f g : Flag) : f.bit = g.bit ↔ f = g := by
  cases f <;> cases g <;> decide

theorem Flag.bit_lt (f : Flag) : f.bit < 8 := by cases f <;> decide

/-- A flag after a flag is written. -/
@[simp] theorem flag_setFlag (f g : Flag) (v : Bool) (p : Byte) :
    flag f (setFlag g v p) = if f = g then v else flag f p := by
  have hf := f.bit_lt
  unfold flag setFlag
  by_cases h : f = g
  · subst h
    cases v <;> simp [hf]
  · have hb : ¬ f.bit = g.bit := fun e => h ((Flag.bit_inj f g).1 e)
    cases v <;> simp [hf, h, hb]

/-- Two flag bytes with the same flags are the same byte. -/
theorem flags_ext {p q : Byte} (h : ∀ f, flag f p = flag f q) : p = q := by
  apply BitVec.eq_of_getLsbD_eq
  intro i hi
  have : i = 0 ∨ i = 1 ∨ i = 2 ∨ i = 3 ∨ i = 4 ∨ i = 5 ∨ i = 6 ∨ i = 7 := by omega
  rcases this with rfl | rfl | rfl | rfl | rfl | rfl | rfl | rfl
  exacts [h .c, h .z, h .i, h .d, h .b, h .u, h .v, h .n]

/-- A flag looked up in a list of flags and their values. -/
@[simp] theorem lookup_flag (f g : Flag) (v : Bool) (l : List (Flag × Bool)) :
    List.lookup f ((g, v) :: l) = if f = g then some v else List.lookup f l := by
  by_cases h : f = g <;> simp [List.lookup, h, beq_eq_false_iff_ne.2]

/-- A flag after `SetZN`. -/
@[simp] theorem flag_setZN (f : Flag) (r p : Byte) :
    flag f (setZN r p) = if f = .n then r.getLsbD 7 else if f = .z then r == 0x00 else flag f p := by
  simp [setZN]

/-- A flag after a compare. -/
@[simp] theorem flag_compareFlags (f : Flag) (r m p : Byte) :
    flag f (compareFlags r m p) = if f = .n then (r - m).getLsbD 7 else if f = .z then r == m
      else if f = .c then decide (m ≤ r) else flag f p := by
  simp [compareFlags]

/-- A flag after BIT. -/
@[simp] theorem flag_bitFlags (f : Flag) (a m p : Byte) :
    flag f (bitFlags a m p) = if f = .v then m.getLsbD 6 else if f = .n then m.getLsbD 7
      else if f = .z then (a &&& m) == 0x00 else flag f p := by
  simp [bitFlags]

/-- A flag after a shift or rotate. -/
@[simp] theorem flag_shiftFlags (f : Flag) (out : Bool) (r p : Byte) :
    flag f (shiftFlags out r p) = if f = .n then r.getLsbD 7 else if f = .z then r == 0x00
      else if f = .c then out else flag f p := by
  simp [shiftFlags]

/-- A flag after ADC. -/
theorem flag_adcFlags (f : Flag) (a m p : Byte) :
    flag f (adcFlags a m p) = if f = .n then (adcResult a m p).getLsbD 7
      else if f = .z then adcResult a m p == 0x00
      else if f = .v then addOverflow a m (adcResult a m p)
      else if f = .c then sumCarry a m (flag .c p) else flag f p := by
  simp [adcFlags]

/-- A flag after SBC. -/
theorem flag_sbcFlags (f : Flag) (a m p : Byte) :
    flag f (sbcFlags a m p) = if f = .n then (sbcResult a m p).getLsbD 7
      else if f = .z then sbcResult a m p == 0x00
      else if f = .v then subOverflow a m (sbcResult a m p)
      else if f = .c then sumCarry a (m ^^^ 0xFF) (flag .c p) else flag f p := by
  simp [sbcFlags]

/-- A flag of the byte PHP pushes. -/
@[simp] theorem flag_pushedFlags (f : Flag) (p : Byte) :
    flag f (pushedFlags p) = if f = .b ∨ f = .u then true else flag f p := by
  cases f <;> simp [flag, pushedFlags, Flag.bit]

/-- A flag after a stacked byte is loaded. -/
@[simp] theorem flag_pulledFlags (f : Flag) (v : Byte) :
    flag f (pulledFlags v) = if f = .u then true else if f = .b then false else flag f v := by
  simp [pulledFlags]

/-- The nine-bit sum as a number. -/
theorem sum9_toNat (a m : Byte) (c : Bool) : (sum9 a m c).toNat = a.toNat + m.toNat + c.toNat := by
  have ha := a.isLt
  have hm := m.isLt
  cases c <;> simp [sum9, BitVec.toNat_add, BitVec.toNat_setWidth] <;> omega

/-- The result of a sum as a number. -/
theorem sumResult_toNat (a m : Byte) (c : Bool) :
    (sumResult a m c).toNat = (a.toNat + m.toNat + c.toNat) % 256 := by
  simp [sumResult, BitVec.toNat_setWidth, sum9_toNat]

/-- The carry of a sum. -/
theorem sumCarry_eq (a m : Byte) (c : Bool) :
    sumCarry a m c = decide (255 < a.toNat + m.toNat + c.toNat) := by
  have h9 := (sum9 a m c).isLt
  rw [sum9_toNat] at h9
  simp only [sumCarry, BitVec.getLsbD, sum9_toNat, Nat.testBit_eq_decide_div_mod_eq]
  congr 1
  simp only [eq_iff_iff]
  omega

end Sys2Proof.Machine
end

