-- ==== Sys2Proof/Laws/Memory.lean ====
section
/-! SUPPORT. Byte memories: read after write, and the canonical form every operation keeps. -/

namespace Sys2Proof.Memory

@[simp] theorem read_nil (a : Nat) : read [] a = unlisted := rfl

theorem read_cons (k : Nat) (v : Byte) (m : Memory) (a : Nat) :
    read ((k, v) :: m) a = if k = a then v else read m a := rfl

theorem read_cell_append (a : Nat) (v : Byte) (m : Memory) (b : Nat) :
    read (cell a v ++ m) b = if v = unlisted then read m b else if a = b then v else read m b := by
  unfold cell
  split <;> simp_all [read_cons]

/-- Canonical form from a higher address is canonical form from a lower one. -/
theorem wfFrom_mono {lo hi : Nat} {m : Memory} (h : wfFrom hi m = true) (hl : lo ≤ hi) :
    wfFrom lo m = true := by
  cases m with
  | nil => rfl
  | cons c m =>
    simp only [wfFrom, Bool.and_eq_true, decide_eq_true_eq] at h ⊢
    exact ⟨⟨hl.trans h.1.1, h.1.2⟩, h.2⟩

/-- A cell below everything a canonical memory lists is not listed. -/
theorem read_below {lo : Nat} {m : Memory} (h : wfFrom lo m = true) {a : Nat} (ha : a < lo) :
    read m a = unlisted := by
  induction m generalizing lo with
  | nil => rfl
  | cons c m ih =>
    obtain ⟨k, v⟩ := c
    simp only [wfFrom, Bool.and_eq_true, decide_eq_true_eq] at h
    rw [read_cons, if_neg (by omega)]
    exact ih h.2 (by omega)

theorem wfFrom_cell_append {lo a : Nat} {v : Byte} {m : Memory} (hlo : lo ≤ a)
    (h : wfFrom (a + 1) m = true) : wfFrom lo (cell a v ++ m) = true := by
  unfold cell
  split
  · exact wfFrom_mono h (by omega)
  · simp_all [wfFrom]

theorem wfFrom_write {lo a : Nat} {v : Byte} {m : Memory} (hlo : lo ≤ a) (h : wfFrom lo m = true) :
    wfFrom lo (write m a v) = true := by
  induction m generalizing lo with
  | nil => simpa [write] using wfFrom_cell_append (v := v) (m := []) hlo rfl
  | cons c m ih =>
    obtain ⟨k, w⟩ := c
    simp only [wfFrom, Bool.and_eq_true, decide_eq_true_eq] at h
    simp only [write]
    split
    · simp only [wfFrom, Bool.and_eq_true, decide_eq_true_eq]
      exact ⟨h.1, ih (by omega) h.2⟩
    · split
      · subst k
        exact wfFrom_cell_append hlo h.2
      · refine wfFrom_cell_append hlo ?_
        simp only [wfFrom, Bool.and_eq_true, decide_eq_true_eq]
        exact ⟨⟨by omega, h.1.2⟩, h.2⟩

/-- Storing a byte keeps the canonical form. -/
theorem wf_write {m : Memory} (h : m.wf = true) (a : Nat) (v : Byte) : (m.write a v).wf = true :=
  wfFrom_write (Nat.zero_le a) h

theorem within_cell_append {size a : Nat} {v : Byte} {m : Memory} (ha : a < size)
    (h : within size m = true) : within size (cell a v ++ m) = true := by
  unfold cell
  split
  · exact h
  · simpa [within, ha] using h

/-- Storing a byte below `size` keeps every listed cell below it. -/
theorem within_write {size a : Nat} {v : Byte} {m : Memory} (ha : a < size)
    (h : within size m = true) : within size (write m a v) = true := by
  induction m with
  | nil => simpa [write] using within_cell_append (v := v) (m := []) ha rfl
  | cons c m ih =>
    obtain ⟨k, w⟩ := c
    have hc : k < size ∧ within size m = true := by simpa [within] using h
    simp only [write]
    split
    · simpa [within, hc.1] using ih hc.2
    · split
      · exact within_cell_append ha hc.2
      · exact within_cell_append ha h

theorem read_write_from {lo : Nat} {m : Memory} (h : wfFrom lo m = true) (a b : Nat) (v : Byte) :
    read (write m a v) b = if a = b then v else read m b := by
  induction m generalizing lo with
  | nil =>
    have := read_cell_append a v [] b
    simp only [List.append_nil] at this
    simp only [write, this, read_nil]
    split <;> simp_all
  | cons c m ih =>
    obtain ⟨k, w⟩ := c
    simp only [wfFrom, Bool.and_eq_true, decide_eq_true_eq] at h
    simp only [write]
    split
    · simp only [read_cons, ih h.2]
      split
      · rw [if_neg (by omega)]
      · rfl
    · split
      · subst k
        rw [read_cell_append, read_cons]
        by_cases hab : a = b
        · subst b
          simp only [if_true]
          split
          · simp_all [read_below h.2 (Nat.lt_succ_self a)]
          · rfl
        · simp [hab]
      · rw [read_cell_append]
        by_cases hab : a = b
        · subst b
          simp only [if_true]
          split
          · rw [read_cons, if_neg (by omega), read_below h.2 (by omega)]
            simp_all
          · rfl
        · simp [hab]

/-- A read after a write: the byte written at that cell, what was there before at every other one. -/
theorem read_write {m : Memory} (h : m.wf = true) (a b : Nat) (v : Byte) :
    (m.write a v).read b = if a = b then v else m.read b := read_write_from h a b v

theorem wfFrom_ofBytes (k : Nat) (bs : List Byte) : wfFrom k (ofBytes k bs) = true := by
  induction bs generalizing k with
  | nil => rfl
  | cons b bs ih => exact wfFrom_cell_append (Nat.le_refl k) (ih (k + 1))

/-- A memory made of a list of bytes is in canonical form. -/
theorem wf_ofBytes (k : Nat) (bs : List Byte) : (ofBytes k bs).wf = true :=
  wfFrom_mono (wfFrom_ofBytes k bs) (Nat.zero_le k)

/-- A memory made of a list of bytes lists no cell past them. -/
theorem within_ofBytes {size : Nat} (k : Nat) (bs : List Byte) (h : k + bs.length ≤ size) :
    within size (ofBytes k bs) = true := by
  induction bs generalizing k with
  | nil => rfl
  | cons b bs ih =>
    have hl : k + (bs.length + 1) ≤ size := by simpa using h
    exact within_cell_append (by omega) (ih (k + 1) (by omega))

/-- Two canonical memories that read alike everywhere are the same list. -/
theorem ext_from {lo : Nat} {m n : Memory} (hm : wfFrom lo m = true) (hn : wfFrom lo n = true)
    (h : ∀ a, lo ≤ a → read m a = read n a) : m = n := by
  induction m generalizing lo n with
  | nil =>
    cases n with
    | nil => rfl
    | cons c n =>
      obtain ⟨k, v⟩ := c
      simp only [wfFrom, Bool.and_eq_true, decide_eq_true_eq, bne_iff_ne] at hn
      have := h k hn.1.1
      simp_all [read_cons]
  | cons c m ih =>
    obtain ⟨k, v⟩ := c
    simp only [wfFrom, Bool.and_eq_true, decide_eq_true_eq, bne_iff_ne] at hm
    cases n with
    | nil =>
      have := h k hm.1.1
      simp_all [read_cons]
    | cons c n =>
      obtain ⟨l, w⟩ := c
      simp only [wfFrom, Bool.and_eq_true, decide_eq_true_eq, bne_iff_ne] at hn
      have hk : k = l := by
        rcases Nat.lt_trichotomy k l with hlt | heq | hgt
        · have := h k hm.1.1
          rw [read_cons, if_pos rfl, read_cons, if_neg (by omega), read_below hn.2 (by omega)] at this
          exact absurd this hm.1.2
        · exact heq
        · have := h l hn.1.1
          rw [read_cons, if_neg (by omega), read_below hm.2 (by omega), read_cons, if_pos rfl] at this
          exact absurd this.symm hn.1.2
      subst l
      have hv : v = w := by simpa [read_cons] using h k hm.1.1
      subst w
      rw [ih hm.2 hn.2 fun a ha => by
        have := h a (by omega)
        rwa [read_cons, if_neg (by omega), read_cons, if_neg (by omega)] at this]

/-- Equal memories are equal data. -/
theorem ext {m n : Memory} (hm : m.wf = true) (hn : n.wf = true) (h : ∀ a, m.read a = n.read a) :
    m = n := ext_from hm hn fun a _ => h a

end Sys2Proof.Memory
end

