-- ==== Sys2Proof/Laws/State.lean ====
section
/-! SUPPORT. What each update of one field of State leaves in each field. -/

namespace Sys2Proof.Machine.State

variable (s : State)

@[simp] theorem setA_a (v : Byte) : (s.setA v).a = v := rfl
@[simp] theorem setA_x (v : Byte) : (s.setA v).x = s.x := rfl
@[simp] theorem setA_y (v : Byte) : (s.setA v).y = s.y := rfl
@[simp] theorem setA_sp (v : Byte) : (s.setA v).sp = s.sp := rfl
@[simp] theorem setA_pc (v : Byte) : (s.setA v).pc = s.pc := rfl
@[simp] theorem setA_p (v : Byte) : (s.setA v).p = s.p := rfl
@[simp] theorem setA_cycles (v : Byte) : (s.setA v).cycles = s.cycles := rfl
@[simp] theorem setA_opcode (v : Byte) : (s.setA v).opcode = s.opcode := rfl
@[simp] theorem setA_fetched (v : Byte) : (s.setA v).fetched = s.fetched := rfl
@[simp] theorem setA_ea (v : Byte) : (s.setA v).ea = s.ea := rfl
@[simp] theorem setA_rel (v : Byte) : (s.setA v).rel = s.rel := rfl
@[simp] theorem setA_nmiPending (v : Byte) : (s.setA v).nmiPending = s.nmiPending := rfl
@[simp] theorem setA_irqLine (v : Byte) : (s.setA v).irqLine = s.irqLine := rfl
@[simp] theorem setA_pulseCount (v : Byte) : (s.setA v).pulseCount = s.pulseCount := rfl
@[simp] theorem setA_vr (v : Byte) : (s.setA v).vr = s.vr := rfl
@[simp] theorem setA_wram (v : Byte) : (s.setA v).wram = s.wram := rfl
@[simp] theorem setA_cart (v : Byte) : (s.setA v).cart = s.cart := rfl
@[simp] theorem setA_params (v : Byte) : (s.setA v).params = s.params := rfl
@[simp] theorem setA_wasReset (v : Byte) : (s.setA v).wasReset = s.wasReset := rfl
@[simp] theorem setA_schedule (v : Byte) : (s.setA v).schedule = s.schedule := rfl

@[simp] theorem setX_a (v : Byte) : (s.setX v).a = s.a := rfl
@[simp] theorem setX_x (v : Byte) : (s.setX v).x = v := rfl
@[simp] theorem setX_y (v : Byte) : (s.setX v).y = s.y := rfl
@[simp] theorem setX_sp (v : Byte) : (s.setX v).sp = s.sp := rfl
@[simp] theorem setX_pc (v : Byte) : (s.setX v).pc = s.pc := rfl
@[simp] theorem setX_p (v : Byte) : (s.setX v).p = s.p := rfl
@[simp] theorem setX_cycles (v : Byte) : (s.setX v).cycles = s.cycles := rfl
@[simp] theorem setX_opcode (v : Byte) : (s.setX v).opcode = s.opcode := rfl
@[simp] theorem setX_fetched (v : Byte) : (s.setX v).fetched = s.fetched := rfl
@[simp] theorem setX_ea (v : Byte) : (s.setX v).ea = s.ea := rfl
@[simp] theorem setX_rel (v : Byte) : (s.setX v).rel = s.rel := rfl
@[simp] theorem setX_nmiPending (v : Byte) : (s.setX v).nmiPending = s.nmiPending := rfl
@[simp] theorem setX_irqLine (v : Byte) : (s.setX v).irqLine = s.irqLine := rfl
@[simp] theorem setX_pulseCount (v : Byte) : (s.setX v).pulseCount = s.pulseCount := rfl
@[simp] theorem setX_vr (v : Byte) : (s.setX v).vr = s.vr := rfl
@[simp] theorem setX_wram (v : Byte) : (s.setX v).wram = s.wram := rfl
@[simp] theorem setX_cart (v : Byte) : (s.setX v).cart = s.cart := rfl
@[simp] theorem setX_params (v : Byte) : (s.setX v).params = s.params := rfl
@[simp] theorem setX_wasReset (v : Byte) : (s.setX v).wasReset = s.wasReset := rfl
@[simp] theorem setX_schedule (v : Byte) : (s.setX v).schedule = s.schedule := rfl

@[simp] theorem setY_a (v : Byte) : (s.setY v).a = s.a := rfl
@[simp] theorem setY_x (v : Byte) : (s.setY v).x = s.x := rfl
@[simp] theorem setY_y (v : Byte) : (s.setY v).y = v := rfl
@[simp] theorem setY_sp (v : Byte) : (s.setY v).sp = s.sp := rfl
@[simp] theorem setY_pc (v : Byte) : (s.setY v).pc = s.pc := rfl
@[simp] theorem setY_p (v : Byte) : (s.setY v).p = s.p := rfl
@[simp] theorem setY_cycles (v : Byte) : (s.setY v).cycles = s.cycles := rfl
@[simp] theorem setY_opcode (v : Byte) : (s.setY v).opcode = s.opcode := rfl
@[simp] theorem setY_fetched (v : Byte) : (s.setY v).fetched = s.fetched := rfl
@[simp] theorem setY_ea (v : Byte) : (s.setY v).ea = s.ea := rfl
@[simp] theorem setY_rel (v : Byte) : (s.setY v).rel = s.rel := rfl
@[simp] theorem setY_nmiPending (v : Byte) : (s.setY v).nmiPending = s.nmiPending := rfl
@[simp] theorem setY_irqLine (v : Byte) : (s.setY v).irqLine = s.irqLine := rfl
@[simp] theorem setY_pulseCount (v : Byte) : (s.setY v).pulseCount = s.pulseCount := rfl
@[simp] theorem setY_vr (v : Byte) : (s.setY v).vr = s.vr := rfl
@[simp] theorem setY_wram (v : Byte) : (s.setY v).wram = s.wram := rfl
@[simp] theorem setY_cart (v : Byte) : (s.setY v).cart = s.cart := rfl
@[simp] theorem setY_params (v : Byte) : (s.setY v).params = s.params := rfl
@[simp] theorem setY_wasReset (v : Byte) : (s.setY v).wasReset = s.wasReset := rfl
@[simp] theorem setY_schedule (v : Byte) : (s.setY v).schedule = s.schedule := rfl

@[simp] theorem setSp_a (v : Byte) : (s.setSp v).a = s.a := rfl
@[simp] theorem setSp_x (v : Byte) : (s.setSp v).x = s.x := rfl
@[simp] theorem setSp_y (v : Byte) : (s.setSp v).y = s.y := rfl
@[simp] theorem setSp_sp (v : Byte) : (s.setSp v).sp = v := rfl
@[simp] theorem setSp_pc (v : Byte) : (s.setSp v).pc = s.pc := rfl
@[simp] theorem setSp_p (v : Byte) : (s.setSp v).p = s.p := rfl
@[simp] theorem setSp_cycles (v : Byte) : (s.setSp v).cycles = s.cycles := rfl
@[simp] theorem setSp_opcode (v : Byte) : (s.setSp v).opcode = s.opcode := rfl
@[simp] theorem setSp_fetched (v : Byte) : (s.setSp v).fetched = s.fetched := rfl
@[simp] theorem setSp_ea (v : Byte) : (s.setSp v).ea = s.ea := rfl
@[simp] theorem setSp_rel (v : Byte) : (s.setSp v).rel = s.rel := rfl
@[simp] theorem setSp_nmiPending (v : Byte) : (s.setSp v).nmiPending = s.nmiPending := rfl
@[simp] theorem setSp_irqLine (v : Byte) : (s.setSp v).irqLine = s.irqLine := rfl
@[simp] theorem setSp_pulseCount (v : Byte) : (s.setSp v).pulseCount = s.pulseCount := rfl
@[simp] theorem setSp_vr (v : Byte) : (s.setSp v).vr = s.vr := rfl
@[simp] theorem setSp_wram (v : Byte) : (s.setSp v).wram = s.wram := rfl
@[simp] theorem setSp_cart (v : Byte) : (s.setSp v).cart = s.cart := rfl
@[simp] theorem setSp_params (v : Byte) : (s.setSp v).params = s.params := rfl
@[simp] theorem setSp_wasReset (v : Byte) : (s.setSp v).wasReset = s.wasReset := rfl
@[simp] theorem setSp_schedule (v : Byte) : (s.setSp v).schedule = s.schedule := rfl

@[simp] theorem setPc_a (v : Word) : (s.setPc v).a = s.a := rfl
@[simp] theorem setPc_x (v : Word) : (s.setPc v).x = s.x := rfl
@[simp] theorem setPc_y (v : Word) : (s.setPc v).y = s.y := rfl
@[simp] theorem setPc_sp (v : Word) : (s.setPc v).sp = s.sp := rfl
@[simp] theorem setPc_pc (v : Word) : (s.setPc v).pc = v := rfl
@[simp] theorem setPc_p (v : Word) : (s.setPc v).p = s.p := rfl
@[simp] theorem setPc_cycles (v : Word) : (s.setPc v).cycles = s.cycles := rfl
@[simp] theorem setPc_opcode (v : Word) : (s.setPc v).opcode = s.opcode := rfl
@[simp] theorem setPc_fetched (v : Word) : (s.setPc v).fetched = s.fetched := rfl
@[simp] theorem setPc_ea (v : Word) : (s.setPc v).ea = s.ea := rfl
@[simp] theorem setPc_rel (v : Word) : (s.setPc v).rel = s.rel := rfl
@[simp] theorem setPc_nmiPending (v : Word) : (s.setPc v).nmiPending = s.nmiPending := rfl
@[simp] theorem setPc_irqLine (v : Word) : (s.setPc v).irqLine = s.irqLine := rfl
@[simp] theorem setPc_pulseCount (v : Word) : (s.setPc v).pulseCount = s.pulseCount := rfl
@[simp] theorem setPc_vr (v : Word) : (s.setPc v).vr = s.vr := rfl
@[simp] theorem setPc_wram (v : Word) : (s.setPc v).wram = s.wram := rfl
@[simp] theorem setPc_cart (v : Word) : (s.setPc v).cart = s.cart := rfl
@[simp] theorem setPc_params (v : Word) : (s.setPc v).params = s.params := rfl
@[simp] theorem setPc_wasReset (v : Word) : (s.setPc v).wasReset = s.wasReset := rfl
@[simp] theorem setPc_schedule (v : Word) : (s.setPc v).schedule = s.schedule := rfl

@[simp] theorem setP_a (v : Byte) : (s.setP v).a = s.a := rfl
@[simp] theorem setP_x (v : Byte) : (s.setP v).x = s.x := rfl
@[simp] theorem setP_y (v : Byte) : (s.setP v).y = s.y := rfl
@[simp] theorem setP_sp (v : Byte) : (s.setP v).sp = s.sp := rfl
@[simp] theorem setP_pc (v : Byte) : (s.setP v).pc = s.pc := rfl
@[simp] theorem setP_p (v : Byte) : (s.setP v).p = v := rfl
@[simp] theorem setP_cycles (v : Byte) : (s.setP v).cycles = s.cycles := rfl
@[simp] theorem setP_opcode (v : Byte) : (s.setP v).opcode = s.opcode := rfl
@[simp] theorem setP_fetched (v : Byte) : (s.setP v).fetched = s.fetched := rfl
@[simp] theorem setP_ea (v : Byte) : (s.setP v).ea = s.ea := rfl
@[simp] theorem setP_rel (v : Byte) : (s.setP v).rel = s.rel := rfl
@[simp] theorem setP_nmiPending (v : Byte) : (s.setP v).nmiPending = s.nmiPending := rfl
@[simp] theorem setP_irqLine (v : Byte) : (s.setP v).irqLine = s.irqLine := rfl
@[simp] theorem setP_pulseCount (v : Byte) : (s.setP v).pulseCount = s.pulseCount := rfl
@[simp] theorem setP_vr (v : Byte) : (s.setP v).vr = s.vr := rfl
@[simp] theorem setP_wram (v : Byte) : (s.setP v).wram = s.wram := rfl
@[simp] theorem setP_cart (v : Byte) : (s.setP v).cart = s.cart := rfl
@[simp] theorem setP_params (v : Byte) : (s.setP v).params = s.params := rfl
@[simp] theorem setP_wasReset (v : Byte) : (s.setP v).wasReset = s.wasReset := rfl
@[simp] theorem setP_schedule (v : Byte) : (s.setP v).schedule = s.schedule := rfl

@[simp] theorem setCycles_a (v : Nat) : (s.setCycles v).a = s.a := rfl
@[simp] theorem setCycles_x (v : Nat) : (s.setCycles v).x = s.x := rfl
@[simp] theorem setCycles_y (v : Nat) : (s.setCycles v).y = s.y := rfl
@[simp] theorem setCycles_sp (v : Nat) : (s.setCycles v).sp = s.sp := rfl
@[simp] theorem setCycles_pc (v : Nat) : (s.setCycles v).pc = s.pc := rfl
@[simp] theorem setCycles_p (v : Nat) : (s.setCycles v).p = s.p := rfl
@[simp] theorem setCycles_cycles (v : Nat) : (s.setCycles v).cycles = v := rfl
@[simp] theorem setCycles_opcode (v : Nat) : (s.setCycles v).opcode = s.opcode := rfl
@[simp] theorem setCycles_fetched (v : Nat) : (s.setCycles v).fetched = s.fetched := rfl
@[simp] theorem setCycles_ea (v : Nat) : (s.setCycles v).ea = s.ea := rfl
@[simp] theorem setCycles_rel (v : Nat) : (s.setCycles v).rel = s.rel := rfl
@[simp] theorem setCycles_nmiPending (v : Nat) : (s.setCycles v).nmiPending = s.nmiPending := rfl
@[simp] theorem setCycles_irqLine (v : Nat) : (s.setCycles v).irqLine = s.irqLine := rfl
@[simp] theorem setCycles_pulseCount (v : Nat) : (s.setCycles v).pulseCount = s.pulseCount := rfl
@[simp] theorem setCycles_vr (v : Nat) : (s.setCycles v).vr = s.vr := rfl
@[simp] theorem setCycles_wram (v : Nat) : (s.setCycles v).wram = s.wram := rfl
@[simp] theorem setCycles_cart (v : Nat) : (s.setCycles v).cart = s.cart := rfl
@[simp] theorem setCycles_params (v : Nat) : (s.setCycles v).params = s.params := rfl
@[simp] theorem setCycles_wasReset (v : Nat) : (s.setCycles v).wasReset = s.wasReset := rfl
@[simp] theorem setCycles_schedule (v : Nat) : (s.setCycles v).schedule = s.schedule := rfl

@[simp] theorem setOpcode_a (v : Byte) : (s.setOpcode v).a = s.a := rfl
@[simp] theorem setOpcode_x (v : Byte) : (s.setOpcode v).x = s.x := rfl
@[simp] theorem setOpcode_y (v : Byte) : (s.setOpcode v).y = s.y := rfl
@[simp] theorem setOpcode_sp (v : Byte) : (s.setOpcode v).sp = s.sp := rfl
@[simp] theorem setOpcode_pc (v : Byte) : (s.setOpcode v).pc = s.pc := rfl
@[simp] theorem setOpcode_p (v : Byte) : (s.setOpcode v).p = s.p := rfl
@[simp] theorem setOpcode_cycles (v : Byte) : (s.setOpcode v).cycles = s.cycles := rfl
@[simp] theorem setOpcode_opcode (v : Byte) : (s.setOpcode v).opcode = v := rfl
@[simp] theorem setOpcode_fetched (v : Byte) : (s.setOpcode v).fetched = s.fetched := rfl
@[simp] theorem setOpcode_ea (v : Byte) : (s.setOpcode v).ea = s.ea := rfl
@[simp] theorem setOpcode_rel (v : Byte) : (s.setOpcode v).rel = s.rel := rfl
@[simp] theorem setOpcode_nmiPending (v : Byte) : (s.setOpcode v).nmiPending = s.nmiPending := rfl
@[simp] theorem setOpcode_irqLine (v : Byte) : (s.setOpcode v).irqLine = s.irqLine := rfl
@[simp] theorem setOpcode_pulseCount (v : Byte) : (s.setOpcode v).pulseCount = s.pulseCount := rfl
@[simp] theorem setOpcode_vr (v : Byte) : (s.setOpcode v).vr = s.vr := rfl
@[simp] theorem setOpcode_wram (v : Byte) : (s.setOpcode v).wram = s.wram := rfl
@[simp] theorem setOpcode_cart (v : Byte) : (s.setOpcode v).cart = s.cart := rfl
@[simp] theorem setOpcode_params (v : Byte) : (s.setOpcode v).params = s.params := rfl
@[simp] theorem setOpcode_wasReset (v : Byte) : (s.setOpcode v).wasReset = s.wasReset := rfl
@[simp] theorem setOpcode_schedule (v : Byte) : (s.setOpcode v).schedule = s.schedule := rfl

@[simp] theorem setFetched_a (v : Byte) : (s.setFetched v).a = s.a := rfl
@[simp] theorem setFetched_x (v : Byte) : (s.setFetched v).x = s.x := rfl
@[simp] theorem setFetched_y (v : Byte) : (s.setFetched v).y = s.y := rfl
@[simp] theorem setFetched_sp (v : Byte) : (s.setFetched v).sp = s.sp := rfl
@[simp] theorem setFetched_pc (v : Byte) : (s.setFetched v).pc = s.pc := rfl
@[simp] theorem setFetched_p (v : Byte) : (s.setFetched v).p = s.p := rfl
@[simp] theorem setFetched_cycles (v : Byte) : (s.setFetched v).cycles = s.cycles := rfl
@[simp] theorem setFetched_opcode (v : Byte) : (s.setFetched v).opcode = s.opcode := rfl
@[simp] theorem setFetched_fetched (v : Byte) : (s.setFetched v).fetched = v := rfl
@[simp] theorem setFetched_ea (v : Byte) : (s.setFetched v).ea = s.ea := rfl
@[simp] theorem setFetched_rel (v : Byte) : (s.setFetched v).rel = s.rel := rfl
@[simp] theorem setFetched_nmiPending (v : Byte) : (s.setFetched v).nmiPending = s.nmiPending := rfl
@[simp] theorem setFetched_irqLine (v : Byte) : (s.setFetched v).irqLine = s.irqLine := rfl
@[simp] theorem setFetched_pulseCount (v : Byte) : (s.setFetched v).pulseCount = s.pulseCount := rfl
@[simp] theorem setFetched_vr (v : Byte) : (s.setFetched v).vr = s.vr := rfl
@[simp] theorem setFetched_wram (v : Byte) : (s.setFetched v).wram = s.wram := rfl
@[simp] theorem setFetched_cart (v : Byte) : (s.setFetched v).cart = s.cart := rfl
@[simp] theorem setFetched_params (v : Byte) : (s.setFetched v).params = s.params := rfl
@[simp] theorem setFetched_wasReset (v : Byte) : (s.setFetched v).wasReset = s.wasReset := rfl
@[simp] theorem setFetched_schedule (v : Byte) : (s.setFetched v).schedule = s.schedule := rfl

@[simp] theorem setEa_a (v : Word) : (s.setEa v).a = s.a := rfl
@[simp] theorem setEa_x (v : Word) : (s.setEa v).x = s.x := rfl
@[simp] theorem setEa_y (v : Word) : (s.setEa v).y = s.y := rfl
@[simp] theorem setEa_sp (v : Word) : (s.setEa v).sp = s.sp := rfl
@[simp] theorem setEa_pc (v : Word) : (s.setEa v).pc = s.pc := rfl
@[simp] theorem setEa_p (v : Word) : (s.setEa v).p = s.p := rfl
@[simp] theorem setEa_cycles (v : Word) : (s.setEa v).cycles = s.cycles := rfl
@[simp] theorem setEa_opcode (v : Word) : (s.setEa v).opcode = s.opcode := rfl
@[simp] theorem setEa_fetched (v : Word) : (s.setEa v).fetched = s.fetched := rfl
@[simp] theorem setEa_ea (v : Word) : (s.setEa v).ea = v := rfl
@[simp] theorem setEa_rel (v : Word) : (s.setEa v).rel = s.rel := rfl
@[simp] theorem setEa_nmiPending (v : Word) : (s.setEa v).nmiPending = s.nmiPending := rfl
@[simp] theorem setEa_irqLine (v : Word) : (s.setEa v).irqLine = s.irqLine := rfl
@[simp] theorem setEa_pulseCount (v : Word) : (s.setEa v).pulseCount = s.pulseCount := rfl
@[simp] theorem setEa_vr (v : Word) : (s.setEa v).vr = s.vr := rfl
@[simp] theorem setEa_wram (v : Word) : (s.setEa v).wram = s.wram := rfl
@[simp] theorem setEa_cart (v : Word) : (s.setEa v).cart = s.cart := rfl
@[simp] theorem setEa_params (v : Word) : (s.setEa v).params = s.params := rfl
@[simp] theorem setEa_wasReset (v : Word) : (s.setEa v).wasReset = s.wasReset := rfl
@[simp] theorem setEa_schedule (v : Word) : (s.setEa v).schedule = s.schedule := rfl

@[simp] theorem setRel_a (v : Word) : (s.setRel v).a = s.a := rfl
@[simp] theorem setRel_x (v : Word) : (s.setRel v).x = s.x := rfl
@[simp] theorem setRel_y (v : Word) : (s.setRel v).y = s.y := rfl
@[simp] theorem setRel_sp (v : Word) : (s.setRel v).sp = s.sp := rfl
@[simp] theorem setRel_pc (v : Word) : (s.setRel v).pc = s.pc := rfl
@[simp] theorem setRel_p (v : Word) : (s.setRel v).p = s.p := rfl
@[simp] theorem setRel_cycles (v : Word) : (s.setRel v).cycles = s.cycles := rfl
@[simp] theorem setRel_opcode (v : Word) : (s.setRel v).opcode = s.opcode := rfl
@[simp] theorem setRel_fetched (v : Word) : (s.setRel v).fetched = s.fetched := rfl
@[simp] theorem setRel_ea (v : Word) : (s.setRel v).ea = s.ea := rfl
@[simp] theorem setRel_rel (v : Word) : (s.setRel v).rel = v := rfl
@[simp] theorem setRel_nmiPending (v : Word) : (s.setRel v).nmiPending = s.nmiPending := rfl
@[simp] theorem setRel_irqLine (v : Word) : (s.setRel v).irqLine = s.irqLine := rfl
@[simp] theorem setRel_pulseCount (v : Word) : (s.setRel v).pulseCount = s.pulseCount := rfl
@[simp] theorem setRel_vr (v : Word) : (s.setRel v).vr = s.vr := rfl
@[simp] theorem setRel_wram (v : Word) : (s.setRel v).wram = s.wram := rfl
@[simp] theorem setRel_cart (v : Word) : (s.setRel v).cart = s.cart := rfl
@[simp] theorem setRel_params (v : Word) : (s.setRel v).params = s.params := rfl
@[simp] theorem setRel_wasReset (v : Word) : (s.setRel v).wasReset = s.wasReset := rfl
@[simp] theorem setRel_schedule (v : Word) : (s.setRel v).schedule = s.schedule := rfl

@[simp] theorem setNmiPending_a (v : Bool) : (s.setNmiPending v).a = s.a := rfl
@[simp] theorem setNmiPending_x (v : Bool) : (s.setNmiPending v).x = s.x := rfl
@[simp] theorem setNmiPending_y (v : Bool) : (s.setNmiPending v).y = s.y := rfl
@[simp] theorem setNmiPending_sp (v : Bool) : (s.setNmiPending v).sp = s.sp := rfl
@[simp] theorem setNmiPending_pc (v : Bool) : (s.setNmiPending v).pc = s.pc := rfl
@[simp] theorem setNmiPending_p (v : Bool) : (s.setNmiPending v).p = s.p := rfl
@[simp] theorem setNmiPending_cycles (v : Bool) : (s.setNmiPending v).cycles = s.cycles := rfl
@[simp] theorem setNmiPending_opcode (v : Bool) : (s.setNmiPending v).opcode = s.opcode := rfl
@[simp] theorem setNmiPending_fetched (v : Bool) : (s.setNmiPending v).fetched = s.fetched := rfl
@[simp] theorem setNmiPending_ea (v : Bool) : (s.setNmiPending v).ea = s.ea := rfl
@[simp] theorem setNmiPending_rel (v : Bool) : (s.setNmiPending v).rel = s.rel := rfl
@[simp] theorem setNmiPending_nmiPending (v : Bool) : (s.setNmiPending v).nmiPending = v := rfl
@[simp] theorem setNmiPending_irqLine (v : Bool) : (s.setNmiPending v).irqLine = s.irqLine := rfl
@[simp] theorem setNmiPending_pulseCount (v : Bool) : (s.setNmiPending v).pulseCount = s.pulseCount := rfl
@[simp] theorem setNmiPending_vr (v : Bool) : (s.setNmiPending v).vr = s.vr := rfl
@[simp] theorem setNmiPending_wram (v : Bool) : (s.setNmiPending v).wram = s.wram := rfl
@[simp] theorem setNmiPending_cart (v : Bool) : (s.setNmiPending v).cart = s.cart := rfl
@[simp] theorem setNmiPending_params (v : Bool) : (s.setNmiPending v).params = s.params := rfl
@[simp] theorem setNmiPending_wasReset (v : Bool) : (s.setNmiPending v).wasReset = s.wasReset := rfl
@[simp] theorem setNmiPending_schedule (v : Bool) : (s.setNmiPending v).schedule = s.schedule := rfl

@[simp] theorem setIrqLine_a (v : Bool) : (s.setIrqLine v).a = s.a := rfl
@[simp] theorem setIrqLine_x (v : Bool) : (s.setIrqLine v).x = s.x := rfl
@[simp] theorem setIrqLine_y (v : Bool) : (s.setIrqLine v).y = s.y := rfl
@[simp] theorem setIrqLine_sp (v : Bool) : (s.setIrqLine v).sp = s.sp := rfl
@[simp] theorem setIrqLine_pc (v : Bool) : (s.setIrqLine v).pc = s.pc := rfl
@[simp] theorem setIrqLine_p (v : Bool) : (s.setIrqLine v).p = s.p := rfl
@[simp] theorem setIrqLine_cycles (v : Bool) : (s.setIrqLine v).cycles = s.cycles := rfl
@[simp] theorem setIrqLine_opcode (v : Bool) : (s.setIrqLine v).opcode = s.opcode := rfl
@[simp] theorem setIrqLine_fetched (v : Bool) : (s.setIrqLine v).fetched = s.fetched := rfl
@[simp] theorem setIrqLine_ea (v : Bool) : (s.setIrqLine v).ea = s.ea := rfl
@[simp] theorem setIrqLine_rel (v : Bool) : (s.setIrqLine v).rel = s.rel := rfl
@[simp] theorem setIrqLine_nmiPending (v : Bool) : (s.setIrqLine v).nmiPending = s.nmiPending := rfl
@[simp] theorem setIrqLine_irqLine (v : Bool) : (s.setIrqLine v).irqLine = v := rfl
@[simp] theorem setIrqLine_pulseCount (v : Bool) : (s.setIrqLine v).pulseCount = s.pulseCount := rfl
@[simp] theorem setIrqLine_vr (v : Bool) : (s.setIrqLine v).vr = s.vr := rfl
@[simp] theorem setIrqLine_wram (v : Bool) : (s.setIrqLine v).wram = s.wram := rfl
@[simp] theorem setIrqLine_cart (v : Bool) : (s.setIrqLine v).cart = s.cart := rfl
@[simp] theorem setIrqLine_params (v : Bool) : (s.setIrqLine v).params = s.params := rfl
@[simp] theorem setIrqLine_wasReset (v : Bool) : (s.setIrqLine v).wasReset = s.wasReset := rfl
@[simp] theorem setIrqLine_schedule (v : Bool) : (s.setIrqLine v).schedule = s.schedule := rfl

@[simp] theorem setPulseCount_a (v : Nat) : (s.setPulseCount v).a = s.a := rfl
@[simp] theorem setPulseCount_x (v : Nat) : (s.setPulseCount v).x = s.x := rfl
@[simp] theorem setPulseCount_y (v : Nat) : (s.setPulseCount v).y = s.y := rfl
@[simp] theorem setPulseCount_sp (v : Nat) : (s.setPulseCount v).sp = s.sp := rfl
@[simp] theorem setPulseCount_pc (v : Nat) : (s.setPulseCount v).pc = s.pc := rfl
@[simp] theorem setPulseCount_p (v : Nat) : (s.setPulseCount v).p = s.p := rfl
@[simp] theorem setPulseCount_cycles (v : Nat) : (s.setPulseCount v).cycles = s.cycles := rfl
@[simp] theorem setPulseCount_opcode (v : Nat) : (s.setPulseCount v).opcode = s.opcode := rfl
@[simp] theorem setPulseCount_fetched (v : Nat) : (s.setPulseCount v).fetched = s.fetched := rfl
@[simp] theorem setPulseCount_ea (v : Nat) : (s.setPulseCount v).ea = s.ea := rfl
@[simp] theorem setPulseCount_rel (v : Nat) : (s.setPulseCount v).rel = s.rel := rfl
@[simp] theorem setPulseCount_nmiPending (v : Nat) : (s.setPulseCount v).nmiPending = s.nmiPending := rfl
@[simp] theorem setPulseCount_irqLine (v : Nat) : (s.setPulseCount v).irqLine = s.irqLine := rfl
@[simp] theorem setPulseCount_pulseCount (v : Nat) : (s.setPulseCount v).pulseCount = v := rfl
@[simp] theorem setPulseCount_vr (v : Nat) : (s.setPulseCount v).vr = s.vr := rfl
@[simp] theorem setPulseCount_wram (v : Nat) : (s.setPulseCount v).wram = s.wram := rfl
@[simp] theorem setPulseCount_cart (v : Nat) : (s.setPulseCount v).cart = s.cart := rfl
@[simp] theorem setPulseCount_params (v : Nat) : (s.setPulseCount v).params = s.params := rfl
@[simp] theorem setPulseCount_wasReset (v : Nat) : (s.setPulseCount v).wasReset = s.wasReset := rfl
@[simp] theorem setPulseCount_schedule (v : Nat) : (s.setPulseCount v).schedule = s.schedule := rfl

@[simp] theorem setVr_a (v : VideoRegs) : (s.setVr v).a = s.a := rfl
@[simp] theorem setVr_x (v : VideoRegs) : (s.setVr v).x = s.x := rfl
@[simp] theorem setVr_y (v : VideoRegs) : (s.setVr v).y = s.y := rfl
@[simp] theorem setVr_sp (v : VideoRegs) : (s.setVr v).sp = s.sp := rfl
@[simp] theorem setVr_pc (v : VideoRegs) : (s.setVr v).pc = s.pc := rfl
@[simp] theorem setVr_p (v : VideoRegs) : (s.setVr v).p = s.p := rfl
@[simp] theorem setVr_cycles (v : VideoRegs) : (s.setVr v).cycles = s.cycles := rfl
@[simp] theorem setVr_opcode (v : VideoRegs) : (s.setVr v).opcode = s.opcode := rfl
@[simp] theorem setVr_fetched (v : VideoRegs) : (s.setVr v).fetched = s.fetched := rfl
@[simp] theorem setVr_ea (v : VideoRegs) : (s.setVr v).ea = s.ea := rfl
@[simp] theorem setVr_rel (v : VideoRegs) : (s.setVr v).rel = s.rel := rfl
@[simp] theorem setVr_nmiPending (v : VideoRegs) : (s.setVr v).nmiPending = s.nmiPending := rfl
@[simp] theorem setVr_irqLine (v : VideoRegs) : (s.setVr v).irqLine = s.irqLine := rfl
@[simp] theorem setVr_pulseCount (v : VideoRegs) : (s.setVr v).pulseCount = s.pulseCount := rfl
@[simp] theorem setVr_vr (v : VideoRegs) : (s.setVr v).vr = v := rfl
@[simp] theorem setVr_wram (v : VideoRegs) : (s.setVr v).wram = s.wram := rfl
@[simp] theorem setVr_cart (v : VideoRegs) : (s.setVr v).cart = s.cart := rfl
@[simp] theorem setVr_params (v : VideoRegs) : (s.setVr v).params = s.params := rfl
@[simp] theorem setVr_wasReset (v : VideoRegs) : (s.setVr v).wasReset = s.wasReset := rfl
@[simp] theorem setVr_schedule (v : VideoRegs) : (s.setVr v).schedule = s.schedule := rfl

@[simp] theorem setWram_a (v : Memory) : (s.setWram v).a = s.a := rfl
@[simp] theorem setWram_x (v : Memory) : (s.setWram v).x = s.x := rfl
@[simp] theorem setWram_y (v : Memory) : (s.setWram v).y = s.y := rfl
@[simp] theorem setWram_sp (v : Memory) : (s.setWram v).sp = s.sp := rfl
@[simp] theorem setWram_pc (v : Memory) : (s.setWram v).pc = s.pc := rfl
@[simp] theorem setWram_p (v : Memory) : (s.setWram v).p = s.p := rfl
@[simp] theorem setWram_cycles (v : Memory) : (s.setWram v).cycles = s.cycles := rfl
@[simp] theorem setWram_opcode (v : Memory) : (s.setWram v).opcode = s.opcode := rfl
@[simp] theorem setWram_fetched (v : Memory) : (s.setWram v).fetched = s.fetched := rfl
@[simp] theorem setWram_ea (v : Memory) : (s.setWram v).ea = s.ea := rfl
@[simp] theorem setWram_rel (v : Memory) : (s.setWram v).rel = s.rel := rfl
@[simp] theorem setWram_nmiPending (v : Memory) : (s.setWram v).nmiPending = s.nmiPending := rfl
@[simp] theorem setWram_irqLine (v : Memory) : (s.setWram v).irqLine = s.irqLine := rfl
@[simp] theorem setWram_pulseCount (v : Memory) : (s.setWram v).pulseCount = s.pulseCount := rfl
@[simp] theorem setWram_vr (v : Memory) : (s.setWram v).vr = s.vr := rfl
@[simp] theorem setWram_wram (v : Memory) : (s.setWram v).wram = v := rfl
@[simp] theorem setWram_cart (v : Memory) : (s.setWram v).cart = s.cart := rfl
@[simp] theorem setWram_params (v : Memory) : (s.setWram v).params = s.params := rfl
@[simp] theorem setWram_wasReset (v : Memory) : (s.setWram v).wasReset = s.wasReset := rfl
@[simp] theorem setWram_schedule (v : Memory) : (s.setWram v).schedule = s.schedule := rfl

@[simp] theorem setCart_a (v : Option Cartridge) : (s.setCart v).a = s.a := rfl
@[simp] theorem setCart_x (v : Option Cartridge) : (s.setCart v).x = s.x := rfl
@[simp] theorem setCart_y (v : Option Cartridge) : (s.setCart v).y = s.y := rfl
@[simp] theorem setCart_sp (v : Option Cartridge) : (s.setCart v).sp = s.sp := rfl
@[simp] theorem setCart_pc (v : Option Cartridge) : (s.setCart v).pc = s.pc := rfl
@[simp] theorem setCart_p (v : Option Cartridge) : (s.setCart v).p = s.p := rfl
@[simp] theorem setCart_cycles (v : Option Cartridge) : (s.setCart v).cycles = s.cycles := rfl
@[simp] theorem setCart_opcode (v : Option Cartridge) : (s.setCart v).opcode = s.opcode := rfl
@[simp] theorem setCart_fetched (v : Option Cartridge) : (s.setCart v).fetched = s.fetched := rfl
@[simp] theorem setCart_ea (v : Option Cartridge) : (s.setCart v).ea = s.ea := rfl
@[simp] theorem setCart_rel (v : Option Cartridge) : (s.setCart v).rel = s.rel := rfl
@[simp] theorem setCart_nmiPending (v : Option Cartridge) : (s.setCart v).nmiPending = s.nmiPending := rfl
@[simp] theorem setCart_irqLine (v : Option Cartridge) : (s.setCart v).irqLine = s.irqLine := rfl
@[simp] theorem setCart_pulseCount (v : Option Cartridge) : (s.setCart v).pulseCount = s.pulseCount := rfl
@[simp] theorem setCart_vr (v : Option Cartridge) : (s.setCart v).vr = s.vr := rfl
@[simp] theorem setCart_wram (v : Option Cartridge) : (s.setCart v).wram = s.wram := rfl
@[simp] theorem setCart_cart (v : Option Cartridge) : (s.setCart v).cart = v := rfl
@[simp] theorem setCart_params (v : Option Cartridge) : (s.setCart v).params = s.params := rfl
@[simp] theorem setCart_wasReset (v : Option Cartridge) : (s.setCart v).wasReset = s.wasReset := rfl
@[simp] theorem setCart_schedule (v : Option Cartridge) : (s.setCart v).schedule = s.schedule := rfl

@[simp] theorem setWasReset_a (v : Bool) : (s.setWasReset v).a = s.a := rfl
@[simp] theorem setWasReset_x (v : Bool) : (s.setWasReset v).x = s.x := rfl
@[simp] theorem setWasReset_y (v : Bool) : (s.setWasReset v).y = s.y := rfl
@[simp] theorem setWasReset_sp (v : Bool) : (s.setWasReset v).sp = s.sp := rfl
@[simp] theorem setWasReset_pc (v : Bool) : (s.setWasReset v).pc = s.pc := rfl
@[simp] theorem setWasReset_p (v : Bool) : (s.setWasReset v).p = s.p := rfl
@[simp] theorem setWasReset_cycles (v : Bool) : (s.setWasReset v).cycles = s.cycles := rfl
@[simp] theorem setWasReset_opcode (v : Bool) : (s.setWasReset v).opcode = s.opcode := rfl
@[simp] theorem setWasReset_fetched (v : Bool) : (s.setWasReset v).fetched = s.fetched := rfl
@[simp] theorem setWasReset_ea (v : Bool) : (s.setWasReset v).ea = s.ea := rfl
@[simp] theorem setWasReset_rel (v : Bool) : (s.setWasReset v).rel = s.rel := rfl
@[simp] theorem setWasReset_nmiPending (v : Bool) : (s.setWasReset v).nmiPending = s.nmiPending := rfl
@[simp] theorem setWasReset_irqLine (v : Bool) : (s.setWasReset v).irqLine = s.irqLine := rfl
@[simp] theorem setWasReset_pulseCount (v : Bool) : (s.setWasReset v).pulseCount = s.pulseCount := rfl
@[simp] theorem setWasReset_vr (v : Bool) : (s.setWasReset v).vr = s.vr := rfl
@[simp] theorem setWasReset_wram (v : Bool) : (s.setWasReset v).wram = s.wram := rfl
@[simp] theorem setWasReset_cart (v : Bool) : (s.setWasReset v).cart = s.cart := rfl
@[simp] theorem setWasReset_params (v : Bool) : (s.setWasReset v).params = s.params := rfl
@[simp] theorem setWasReset_wasReset (v : Bool) : (s.setWasReset v).wasReset = v := rfl
@[simp] theorem setWasReset_schedule (v : Bool) : (s.setWasReset v).schedule = s.schedule := rfl

@[simp] theorem setSchedule_a (v : List HostAction) : (s.setSchedule v).a = s.a := rfl
@[simp] theorem setSchedule_x (v : List HostAction) : (s.setSchedule v).x = s.x := rfl
@[simp] theorem setSchedule_y (v : List HostAction) : (s.setSchedule v).y = s.y := rfl
@[simp] theorem setSchedule_sp (v : List HostAction) : (s.setSchedule v).sp = s.sp := rfl
@[simp] theorem setSchedule_pc (v : List HostAction) : (s.setSchedule v).pc = s.pc := rfl
@[simp] theorem setSchedule_p (v : List HostAction) : (s.setSchedule v).p = s.p := rfl
@[simp] theorem setSchedule_cycles (v : List HostAction) : (s.setSchedule v).cycles = s.cycles := rfl
@[simp] theorem setSchedule_opcode (v : List HostAction) : (s.setSchedule v).opcode = s.opcode := rfl
@[simp] theorem setSchedule_fetched (v : List HostAction) : (s.setSchedule v).fetched = s.fetched := rfl
@[simp] theorem setSchedule_ea (v : List HostAction) : (s.setSchedule v).ea = s.ea := rfl
@[simp] theorem setSchedule_rel (v : List HostAction) : (s.setSchedule v).rel = s.rel := rfl
@[simp] theorem setSchedule_nmiPending (v : List HostAction) : (s.setSchedule v).nmiPending = s.nmiPending := rfl
@[simp] theorem setSchedule_irqLine (v : List HostAction) : (s.setSchedule v).irqLine = s.irqLine := rfl
@[simp] theorem setSchedule_pulseCount (v : List HostAction) : (s.setSchedule v).pulseCount = s.pulseCount := rfl
@[simp] theorem setSchedule_vr (v : List HostAction) : (s.setSchedule v).vr = s.vr := rfl
@[simp] theorem setSchedule_wram (v : List HostAction) : (s.setSchedule v).wram = s.wram := rfl
@[simp] theorem setSchedule_cart (v : List HostAction) : (s.setSchedule v).cart = s.cart := rfl
@[simp] theorem setSchedule_params (v : List HostAction) : (s.setSchedule v).params = s.params := rfl
@[simp] theorem setSchedule_wasReset (v : List HostAction) : (s.setSchedule v).wasReset = s.wasReset := rfl
@[simp] theorem setSchedule_schedule (v : List HostAction) : (s.setSchedule v).schedule = v := rfl

end Sys2Proof.Machine.State
end

