-- ==== Sys2Proof/Laws/Ops.lean ====
section
/-! SUPPORT. Everything a bus access, a stack operation and an addressing mode can do. -/

namespace Sys2Proof.Machine

/-! ## Reads -/

theorem ReadEffects.refl (v : VideoRegs) : ReadEffects v v := ⟨rfl, rfl, rfl, rfl, rfl⟩

theorem ReadEffects.trans {u v w : VideoRegs} (h : ReadEffects u v) (k : ReadEffects v w) :
    ReadEffects u w :=
  ⟨k.control.trans h.control, k.mask.trans h.mask, k.status.trans h.status,
    k.nametable.trans h.nametable, k.palette.trans h.palette⟩

theorem vregRead_state (s : State) (r : VReg) :
    (vregRead s r).2 = s.setVr (vregRead s r).2.vr ∧ ReadEffects s.vr (vregRead s r).2.vr := by
  cases r <;> refine ⟨rfl, ?_⟩ <;> try exact ReadEffects.refl _
  · refine ⟨rfl, rfl, ?_, rfl, rfl⟩
    simp [vregRead, BitVec.and_assoc]
  · exact ⟨rfl, rfl, rfl, rfl, rfl⟩

/-- A bus read changes the video registers at most, and of them only what `ReadEffects` allows. -/
theorem busRead_state (s : State) (a : Word) :
    (busRead s a).2 = s.setVr (busRead s a).2.vr ∧ ReadEffects s.vr (busRead s a).2.vr := by
  unfold busRead
  split
  · exact ⟨rfl, ReadEffects.refl _⟩
  · exact ⟨rfl, ReadEffects.refl _⟩
  · exact vregRead_state s _
  · exact ⟨rfl, ReadEffects.refl _⟩

@[simp] theorem busRead_a (s : State) (a : Word) : (busRead s a).2.a = s.a := by
  rw [(busRead_state s a).1, State.setVr_a]
@[simp] theorem busRead_x (s : State) (a : Word) : (busRead s a).2.x = s.x := by
  rw [(busRead_state s a).1, State.setVr_x]
@[simp] theorem busRead_y (s : State) (a : Word) : (busRead s a).2.y = s.y := by
  rw [(busRead_state s a).1, State.setVr_y]
@[simp] theorem busRead_sp (s : State) (a : Word) : (busRead s a).2.sp = s.sp := by
  rw [(busRead_state s a).1, State.setVr_sp]
@[simp] theorem busRead_pc (s : State) (a : Word) : (busRead s a).2.pc = s.pc := by
  rw [(busRead_state s a).1, State.setVr_pc]
@[simp] theorem busRead_p (s : State) (a : Word) : (busRead s a).2.p = s.p := by
  rw [(busRead_state s a).1, State.setVr_p]
@[simp] theorem busRead_cycles (s : State) (a : Word) : (busRead s a).2.cycles = s.cycles := by
  rw [(busRead_state s a).1, State.setVr_cycles]
@[simp] theorem busRead_opcode (s : State) (a : Word) : (busRead s a).2.opcode = s.opcode := by
  rw [(busRead_state s a).1, State.setVr_opcode]
@[simp] theorem busRead_fetched (s : State) (a : Word) : (busRead s a).2.fetched = s.fetched := by
  rw [(busRead_state s a).1, State.setVr_fetched]
@[simp] theorem busRead_ea (s : State) (a : Word) : (busRead s a).2.ea = s.ea := by
  rw [(busRead_state s a).1, State.setVr_ea]
@[simp] theorem busRead_rel (s : State) (a : Word) : (busRead s a).2.rel = s.rel := by
  rw [(busRead_state s a).1, State.setVr_rel]
@[simp] theorem busRead_nmiPending (s : State) (a : Word) : (busRead s a).2.nmiPending = s.nmiPending := by
  rw [(busRead_state s a).1, State.setVr_nmiPending]
@[simp] theorem busRead_irqLine (s : State) (a : Word) : (busRead s a).2.irqLine = s.irqLine := by
  rw [(busRead_state s a).1, State.setVr_irqLine]
@[simp] theorem busRead_pulseCount (s : State) (a : Word) : (busRead s a).2.pulseCount = s.pulseCount := by
  rw [(busRead_state s a).1, State.setVr_pulseCount]
@[simp] theorem busRead_wram (s : State) (a : Word) : (busRead s a).2.wram = s.wram := by
  rw [(busRead_state s a).1, State.setVr_wram]
@[simp] theorem busRead_cart (s : State) (a : Word) : (busRead s a).2.cart = s.cart := by
  rw [(busRead_state s a).1, State.setVr_cart]
@[simp] theorem busRead_params (s : State) (a : Word) : (busRead s a).2.params = s.params := by
  rw [(busRead_state s a).1, State.setVr_params]
@[simp] theorem busRead_wasReset (s : State) (a : Word) : (busRead s a).2.wasReset = s.wasReset := by
  rw [(busRead_state s a).1, State.setVr_wasReset]
@[simp] theorem busRead_schedule (s : State) (a : Word) : (busRead s a).2.schedule = s.schedule := by
  rw [(busRead_state s a).1, State.setVr_schedule]

/-- A read outside the video-register window changes nothing, and returns what a peek returns. -/
theorem busRead_plain {s : State} {a : Word} (h : plainAddr s a) : busRead s a = (memPeek s a, s) := by
  unfold busRead memPeek
  split
  · rfl
  · rfl
  · exact absurd ‹_› (h _)
  · rfl

/-- The byte a read returns is the byte a peek returns. -/
theorem busRead_fst (s : State) (a : Word) : (busRead s a).1 = memPeek s a := by
  unfold busRead memPeek
  split
  · rfl
  · rfl
  · rename_i r _
    cases r <;> rfl
  · rfl

/-! ## Writes -/

theorem vregWrite_state (s : State) (r : VReg) (v : Byte) :
    vregWrite s r v = (s.setVr (vregWrite s r v).vr).setCart (vregWrite s r v).cart := by
  cases r <;> try rfl
  simp only [vregWrite, advanceData, videoWrite]
  split <;> rfl

/-- A bus write changes the video registers, work RAM and the cartridge at most. -/
theorem busWrite_state (s : State) (a : Word) (v : Byte) :
    busWrite s a v =
      ((s.setVr (busWrite s a v).vr).setWram (busWrite s a v).wram).setCart (busWrite s a v).cart := by
  unfold busWrite
  split
  · unfold writePrg
    split <;> rfl
  · rfl
  · rename_i r _
    generalize hr : vregWrite s r v = t
    have h := vregWrite_state s r v
    rw [hr] at h
    rw [h]
    rfl
  · rfl

@[simp] theorem busWrite_a (s : State) (a : Word) (v : Byte) : (busWrite s a v).a = s.a := by
  rw [busWrite_state s a v]; rfl
@[simp] theorem busWrite_x (s : State) (a : Word) (v : Byte) : (busWrite s a v).x = s.x := by
  rw [busWrite_state s a v]; rfl
@[simp] theorem busWrite_y (s : State) (a : Word) (v : Byte) : (busWrite s a v).y = s.y := by
  rw [busWrite_state s a v]; rfl
@[simp] theorem busWrite_sp (s : State) (a : Word) (v : Byte) : (busWrite s a v).sp = s.sp := by
  rw [busWrite_state s a v]; rfl
@[simp] theorem busWrite_pc (s : State) (a : Word) (v : Byte) : (busWrite s a v).pc = s.pc := by
  rw [busWrite_state s a v]; rfl
@[simp] theorem busWrite_p (s : State) (a : Word) (v : Byte) : (busWrite s a v).p = s.p := by
  rw [busWrite_state s a v]; rfl
@[simp] theorem busWrite_cycles (s : State) (a : Word) (v : Byte) : (busWrite s a v).cycles = s.cycles := by
  rw [busWrite_state s a v]; rfl
@[simp] theorem busWrite_opcode (s : State) (a : Word) (v : Byte) : (busWrite s a v).opcode = s.opcode := by
  rw [busWrite_state s a v]; rfl
@[simp] theorem busWrite_fetched (s : State) (a : Word) (v : Byte) : (busWrite s a v).fetched = s.fetched := by
  rw [busWrite_state s a v]; rfl
@[simp] theorem busWrite_ea (s : State) (a : Word) (v : Byte) : (busWrite s a v).ea = s.ea := by
  rw [busWrite_state s a v]; rfl
@[simp] theorem busWrite_rel (s : State) (a : Word) (v : Byte) : (busWrite s a v).rel = s.rel := by
  rw [busWrite_state s a v]; rfl
@[simp] theorem busWrite_nmiPending (s : State) (a : Word) (v : Byte) : (busWrite s a v).nmiPending = s.nmiPending := by
  rw [busWrite_state s a v]; rfl
@[simp] theorem busWrite_irqLine (s : State) (a : Word) (v : Byte) : (busWrite s a v).irqLine = s.irqLine := by
  rw [busWrite_state s a v]; rfl
@[simp] theorem busWrite_pulseCount (s : State) (a : Word) (v : Byte) : (busWrite s a v).pulseCount = s.pulseCount := by
  rw [busWrite_state s a v]; rfl
@[simp] theorem busWrite_params (s : State) (a : Word) (v : Byte) : (busWrite s a v).params = s.params := by
  rw [busWrite_state s a v]; rfl
@[simp] theorem busWrite_wasReset (s : State) (a : Word) (v : Byte) : (busWrite s a v).wasReset = s.wasReset := by
  rw [busWrite_state s a v]; rfl
@[simp] theorem busWrite_schedule (s : State) (a : Word) (v : Byte) : (busWrite s a v).schedule = s.schedule := by
  rw [busWrite_state s a v]; rfl

/-! ## The stack lies in work RAM: no mapper claims it -/

theorem cpuRead_low (m : Mapper) (a : Word) (h : a.toNat < 0x8000) : m.cpuRead a = none := by
  obtain ⟨b, c⟩ := m
  simp only [Mapper.cpuRead]
  rw [if_neg]
  simp [BitVec.le_def]
  omega

theorem cpuWrite_low (m : Mapper) (a : Word) (h : a.toNat < 0x8000) : m.cpuWrite a = none := by
  obtain ⟨b, c⟩ := m
  simp only [Mapper.cpuWrite]
  rw [if_neg]
  simp [BitVec.le_def]
  omega

theorem cpuReadTarget_low (s : State) (a : Word) (h : a.toNat < 0x8000) :
    cpuReadTarget s a = cpuTarget none a := by
  unfold cpuReadTarget
  cases s.cart <;> simp [cpuRead_low _ _ h]

theorem cpuWriteTarget_low (s : State) (a : Word) (h : a.toNat < 0x8000) :
    cpuWriteTarget s a = cpuTarget none a := by
  unfold cpuWriteTarget
  cases s.cart <;> simp [cpuWrite_low _ _ h]

theorem cpuTarget_wram (a : Word) (h : a.toNat < 0x2000) : cpuTarget none a = .wram (a.toNat % 2048) := by
  have : a ≤ 0x1FFF := by
    simp [BitVec.le_def]
    omega
  simp only [cpuTarget, this, if_true]
  congr 1
  rw [BitVec.toNat_and]
  exact Nat.and_two_pow_sub_one_eq_mod a.toNat 11

/-- A read below 0x2000 is a work-RAM read (20_memory.md R64). -/
theorem busRead_low (s : State) (a : Word) (h : a.toNat < 0x2000) :
    busRead s a = (s.wram.read (a.toNat % 2048), s) := by
  simp [busRead, cpuReadTarget_low s a (by omega), cpuTarget_wram a h]

/-- A write below 0x2000 is a work-RAM write (20_memory.md R64). -/
theorem busWrite_low (s : State) (a : Word) (v : Byte) (h : a.toNat < 0x2000) :
    busWrite s a v = s.setWram (s.wram.write (a.toNat % 2048) v) := by
  simp [busWrite, cpuWriteTarget_low s a (by omega), cpuTarget_wram a h]

theorem stackAddr_toNat (sp : Byte) : (stackAddr sp).toNat = stackCell sp := by
  have := sp.isLt
  simp [stackAddr, stackCell, BitVec.toNat_add, BitVec.toNat_setWidth]
  omega

theorem stackCell_lt (sp : Byte) : stackCell sp < 512 := by
  have := sp.isLt
  unfold stackCell
  omega

/-- `Push(v)` stores into the work-RAM cell of the slot (43_stack.md R190). -/
theorem push_eq (s : State) (v : Byte) :
    push s v = (s.setWram (s.wram.write (stackCell s.sp) v)).setSp (s.sp - 1) := by
  have h := stackCell_lt s.sp
  have ha := stackAddr_toNat s.sp
  simp only [push]
  rw [busWrite_low s _ v (by omega), ha, Nat.mod_eq_of_lt (by omega)]
  rfl

/-- `Pull()` reads the work-RAM cell of the slot above (43_stack.md R191). -/
theorem pull_eq (s : State) : pull s = (s.wram.read (stackCell (s.sp + 1)), s.setSp (s.sp + 1)) := by
  have h := stackCell_lt (s.sp + 1)
  have ha := stackAddr_toNat (s.sp + 1)
  simp only [pull, State.setSp_sp]
  rw [busRead_low _ _ (by omega), ha, Nat.mod_eq_of_lt (by omega)]
  rfl

/-! ## Addressing modes -/

/-- What resolving a mode or reading an operand can change: the internal registers `ea`, `rel` and
`fetched`, and the read effects on the video registers. -/
structure ModeEffects (s t : State) : Prop where
  eq : ∃ vr ea rel b, t = (((s.setVr vr).setEa ea).setRel rel).setFetched b
  vr : ReadEffects s.vr t.vr

theorem ModeEffects.refl (s : State) : ModeEffects s s :=
  ⟨⟨s.vr, s.ea, s.rel, s.fetched, by cases s; rfl⟩, ReadEffects.refl _⟩

theorem ModeEffects.trans {s t u : State} (h : ModeEffects s t) (k : ModeEffects t u) :
    ModeEffects s u := by
  obtain ⟨⟨_, _, _, _, rfl⟩, hv⟩ := h
  obtain ⟨⟨vr, ea, rel, b, rfl⟩, kv⟩ := k
  exact ⟨⟨vr, ea, rel, b, by simp only [State.setVr, State.setEa, State.setRel, State.setFetched]⟩,
    hv.trans kv⟩

/-- The state after a mode's effects differs in `vr`, `ea`, `rel` and `fetched` only. -/
theorem ModeEffects.state {s t : State} (h : ModeEffects s t) :
    t = { s with vr := t.vr, ea := t.ea, rel := t.rel, fetched := t.fetched } := by
  obtain ⟨⟨_, _, _, _, rfl⟩, -⟩ := h
  rfl

theorem ModeEffects.setEa (s : State) (w : Word) : ModeEffects s (s.setEa w) :=
  ⟨⟨s.vr, w, s.rel, s.fetched, by cases s; rfl⟩, ReadEffects.refl _⟩

theorem ModeEffects.setRel (s : State) (w : Word) : ModeEffects s (s.setRel w) :=
  ⟨⟨s.vr, s.ea, w, s.fetched, by cases s; rfl⟩, ReadEffects.refl _⟩

theorem ModeEffects.setFetched (s : State) (b : Byte) : ModeEffects s (s.setFetched b) :=
  ⟨⟨s.vr, s.ea, s.rel, b, by cases s; rfl⟩, ReadEffects.refl _⟩

theorem ModeEffects.busRead (s : State) (a : Word) : ModeEffects s (busRead s a).2 := by
  obtain ⟨h, k⟩ := busRead_state s a
  exact ⟨⟨(Machine.busRead s a).2.vr, s.ea, s.rel, s.fetched, h.trans (by cases s; rfl)⟩, k⟩

/-- Everything resolving a mode can do. -/
theorem resolve_effects (m : Mode) (s : State) : ModeEffects s (resolve m s).2 := by
  cases m
  case imp => exact .setFetched _ _
  case imm => exact .setEa _ _
  case zp0 => exact .setEa _ _
  case zpx => exact .setEa _ _
  case zpy => exact .setEa _ _
  case abs => exact .setEa _ _
  case abx => exact .setEa _ _
  case aby => exact .setEa _ _
  case ind => exact ((ModeEffects.busRead _ _).trans (.busRead _ _)).trans (.setEa _ _)
  case izx => exact ((ModeEffects.busRead _ _).trans (.busRead _ _)).trans (.setEa _ _)
  case izy => exact ((ModeEffects.busRead _ _).trans (.busRead _ _)).trans (.setEa _ _)
  case rel => exact .setRel _ _

/-- Everything an operand fetch can do. -/
theorem operand_effects (m : Mode) (s : State) : ModeEffects s (operand m s).2 := by
  cases m
  case imp => exact .refl _
  case imm => exact .setFetched _ _
  all_goals exact (ModeEffects.busRead _ _).trans (.setFetched _ _)

/-- Everything resolving a mode and reading its operand can do. -/
theorem operandOf_effects (m : Mode) (s : State) : ModeEffects s (operandOf m s).2 :=
  (resolve_effects m s).trans (operand_effects m _)

theorem ModeEffects.a_eq {s t : State} (h : ModeEffects s t) : t.a = s.a := by
  obtain ⟨⟨_, _, _, _, rfl⟩, -⟩ := h; rfl
theorem ModeEffects.x_eq {s t : State} (h : ModeEffects s t) : t.x = s.x := by
  obtain ⟨⟨_, _, _, _, rfl⟩, -⟩ := h; rfl
theorem ModeEffects.y_eq {s t : State} (h : ModeEffects s t) : t.y = s.y := by
  obtain ⟨⟨_, _, _, _, rfl⟩, -⟩ := h; rfl
theorem ModeEffects.sp_eq {s t : State} (h : ModeEffects s t) : t.sp = s.sp := by
  obtain ⟨⟨_, _, _, _, rfl⟩, -⟩ := h; rfl
theorem ModeEffects.pc_eq {s t : State} (h : ModeEffects s t) : t.pc = s.pc := by
  obtain ⟨⟨_, _, _, _, rfl⟩, -⟩ := h; rfl
theorem ModeEffects.p_eq {s t : State} (h : ModeEffects s t) : t.p = s.p := by
  obtain ⟨⟨_, _, _, _, rfl⟩, -⟩ := h; rfl
theorem ModeEffects.cycles_eq {s t : State} (h : ModeEffects s t) : t.cycles = s.cycles := by
  obtain ⟨⟨_, _, _, _, rfl⟩, -⟩ := h; rfl
theorem ModeEffects.opcode_eq {s t : State} (h : ModeEffects s t) : t.opcode = s.opcode := by
  obtain ⟨⟨_, _, _, _, rfl⟩, -⟩ := h; rfl
theorem ModeEffects.nmiPending_eq {s t : State} (h : ModeEffects s t) : t.nmiPending = s.nmiPending := by
  obtain ⟨⟨_, _, _, _, rfl⟩, -⟩ := h; rfl
theorem ModeEffects.irqLine_eq {s t : State} (h : ModeEffects s t) : t.irqLine = s.irqLine := by
  obtain ⟨⟨_, _, _, _, rfl⟩, -⟩ := h; rfl
theorem ModeEffects.pulseCount_eq {s t : State} (h : ModeEffects s t) : t.pulseCount = s.pulseCount := by
  obtain ⟨⟨_, _, _, _, rfl⟩, -⟩ := h; rfl
theorem ModeEffects.wram_eq {s t : State} (h : ModeEffects s t) : t.wram = s.wram := by
  obtain ⟨⟨_, _, _, _, rfl⟩, -⟩ := h; rfl
theorem ModeEffects.cart_eq {s t : State} (h : ModeEffects s t) : t.cart = s.cart := by
  obtain ⟨⟨_, _, _, _, rfl⟩, -⟩ := h; rfl
theorem ModeEffects.params_eq {s t : State} (h : ModeEffects s t) : t.params = s.params := by
  obtain ⟨⟨_, _, _, _, rfl⟩, -⟩ := h; rfl
theorem ModeEffects.wasReset_eq {s t : State} (h : ModeEffects s t) : t.wasReset = s.wasReset := by
  obtain ⟨⟨_, _, _, _, rfl⟩, -⟩ := h; rfl
theorem ModeEffects.schedule_eq {s t : State} (h : ModeEffects s t) : t.schedule = s.schedule := by
  obtain ⟨⟨_, _, _, _, rfl⟩, -⟩ := h; rfl

@[simp] theorem resolve_a (m : Mode) (s : State) : (resolve m s).2.a = s.a := (resolve_effects m s).a_eq
@[simp] theorem resolve_x (m : Mode) (s : State) : (resolve m s).2.x = s.x := (resolve_effects m s).x_eq
@[simp] theorem resolve_y (m : Mode) (s : State) : (resolve m s).2.y = s.y := (resolve_effects m s).y_eq
@[simp] theorem resolve_sp (m : Mode) (s : State) : (resolve m s).2.sp = s.sp := (resolve_effects m s).sp_eq
@[simp] theorem resolve_pc (m : Mode) (s : State) : (resolve m s).2.pc = s.pc := (resolve_effects m s).pc_eq
@[simp] theorem resolve_p (m : Mode) (s : State) : (resolve m s).2.p = s.p := (resolve_effects m s).p_eq
@[simp] theorem resolve_cycles (m : Mode) (s : State) : (resolve m s).2.cycles = s.cycles := (resolve_effects m s).cycles_eq
@[simp] theorem resolve_opcode (m : Mode) (s : State) : (resolve m s).2.opcode = s.opcode := (resolve_effects m s).opcode_eq
@[simp] theorem resolve_nmiPending (m : Mode) (s : State) : (resolve m s).2.nmiPending = s.nmiPending := (resolve_effects m s).nmiPending_eq
@[simp] theorem resolve_irqLine (m : Mode) (s : State) : (resolve m s).2.irqLine = s.irqLine := (resolve_effects m s).irqLine_eq
@[simp] theorem resolve_pulseCount (m : Mode) (s : State) : (resolve m s).2.pulseCount = s.pulseCount := (resolve_effects m s).pulseCount_eq
@[simp] theorem resolve_wram (m : Mode) (s : State) : (resolve m s).2.wram = s.wram := (resolve_effects m s).wram_eq
@[simp] theorem resolve_cart (m : Mode) (s : State) : (resolve m s).2.cart = s.cart := (resolve_effects m s).cart_eq
@[simp] theorem resolve_params (m : Mode) (s : State) : (resolve m s).2.params = s.params := (resolve_effects m s).params_eq
@[simp] theorem resolve_wasReset (m : Mode) (s : State) : (resolve m s).2.wasReset = s.wasReset := (resolve_effects m s).wasReset_eq
@[simp] theorem resolve_schedule (m : Mode) (s : State) : (resolve m s).2.schedule = s.schedule := (resolve_effects m s).schedule_eq
@[simp] theorem operand_a (m : Mode) (s : State) : (operand m s).2.a = s.a := (operand_effects m s).a_eq
@[simp] theorem operand_x (m : Mode) (s : State) : (operand m s).2.x = s.x := (operand_effects m s).x_eq
@[simp] theorem operand_y (m : Mode) (s : State) : (operand m s).2.y = s.y := (operand_effects m s).y_eq
@[simp] theorem operand_sp (m : Mode) (s : State) : (operand m s).2.sp = s.sp := (operand_effects m s).sp_eq
@[simp] theorem operand_pc (m : Mode) (s : State) : (operand m s).2.pc = s.pc := (operand_effects m s).pc_eq
@[simp] theorem operand_p (m : Mode) (s : State) : (operand m s).2.p = s.p := (operand_effects m s).p_eq
@[simp] theorem operand_cycles (m : Mode) (s : State) : (operand m s).2.cycles = s.cycles := (operand_effects m s).cycles_eq
@[simp] theorem operand_opcode (m : Mode) (s : State) : (operand m s).2.opcode = s.opcode := (operand_effects m s).opcode_eq
@[simp] theorem operand_nmiPending (m : Mode) (s : State) : (operand m s).2.nmiPending = s.nmiPending := (operand_effects m s).nmiPending_eq
@[simp] theorem operand_irqLine (m : Mode) (s : State) : (operand m s).2.irqLine = s.irqLine := (operand_effects m s).irqLine_eq
@[simp] theorem operand_pulseCount (m : Mode) (s : State) : (operand m s).2.pulseCount = s.pulseCount := (operand_effects m s).pulseCount_eq
@[simp] theorem operand_wram (m : Mode) (s : State) : (operand m s).2.wram = s.wram := (operand_effects m s).wram_eq
@[simp] theorem operand_cart (m : Mode) (s : State) : (operand m s).2.cart = s.cart := (operand_effects m s).cart_eq
@[simp] theorem operand_params (m : Mode) (s : State) : (operand m s).2.params = s.params := (operand_effects m s).params_eq
@[simp] theorem operand_wasReset (m : Mode) (s : State) : (operand m s).2.wasReset = s.wasReset := (operand_effects m s).wasReset_eq
@[simp] theorem operand_schedule (m : Mode) (s : State) : (operand m s).2.schedule = s.schedule := (operand_effects m s).schedule_eq
@[simp] theorem operandOf_a (m : Mode) (s : State) : (operandOf m s).2.a = s.a := (operandOf_effects m s).a_eq
@[simp] theorem operandOf_x (m : Mode) (s : State) : (operandOf m s).2.x = s.x := (operandOf_effects m s).x_eq
@[simp] theorem operandOf_y (m : Mode) (s : State) : (operandOf m s).2.y = s.y := (operandOf_effects m s).y_eq
@[simp] theorem operandOf_sp (m : Mode) (s : State) : (operandOf m s).2.sp = s.sp := (operandOf_effects m s).sp_eq
@[simp] theorem operandOf_pc (m : Mode) (s : State) : (operandOf m s).2.pc = s.pc := (operandOf_effects m s).pc_eq
@[simp] theorem operandOf_p (m : Mode) (s : State) : (operandOf m s).2.p = s.p := (operandOf_effects m s).p_eq
@[simp] theorem operandOf_cycles (m : Mode) (s : State) : (operandOf m s).2.cycles = s.cycles := (operandOf_effects m s).cycles_eq
@[simp] theorem operandOf_opcode (m : Mode) (s : State) : (operandOf m s).2.opcode = s.opcode := (operandOf_effects m s).opcode_eq
@[simp] theorem operandOf_nmiPending (m : Mode) (s : State) : (operandOf m s).2.nmiPending = s.nmiPending := (operandOf_effects m s).nmiPending_eq
@[simp] theorem operandOf_irqLine (m : Mode) (s : State) : (operandOf m s).2.irqLine = s.irqLine := (operandOf_effects m s).irqLine_eq
@[simp] theorem operandOf_pulseCount (m : Mode) (s : State) : (operandOf m s).2.pulseCount = s.pulseCount := (operandOf_effects m s).pulseCount_eq
@[simp] theorem operandOf_wram (m : Mode) (s : State) : (operandOf m s).2.wram = s.wram := (operandOf_effects m s).wram_eq
@[simp] theorem operandOf_cart (m : Mode) (s : State) : (operandOf m s).2.cart = s.cart := (operandOf_effects m s).cart_eq
@[simp] theorem operandOf_params (m : Mode) (s : State) : (operandOf m s).2.params = s.params := (operandOf_effects m s).params_eq
@[simp] theorem operandOf_wasReset (m : Mode) (s : State) : (operandOf m s).2.wasReset = s.wasReset := (operandOf_effects m s).wasReset_eq
@[simp] theorem operandOf_schedule (m : Mode) (s : State) : (operandOf m s).2.schedule = s.schedule := (operandOf_effects m s).schedule_eq

end Sys2Proof.Machine
end

