-- ==== Sys2Proof/Laws/Meanings.lean ====
section
/-! SUPPORT. What each shared meaning answers, in the terms of Safety.lean; the provers cite these instead
of unfolding a meaning. -/

namespace Sys2Proof.Machine

/-! ## The opcode table -/

/-- An entry of a byte is the official one, or the placeholder's. -/
theorem rowOf_mem_or (op : Byte) :
    rowOf op ∈ officialRows ∧ (rowOf op).op = op ∨ rowOf op = ⟨op, .unofficial, .imp, 2⟩ := by
  unfold rowOf
  cases h : officialRows.find? (fun r => r.op == op) with
  | none => exact .inr rfl
  | some r => exact .inl ⟨List.mem_of_find?_eq_some h, by simpa using List.find?_some h⟩

/-- A mnemonic's entries are the official rows that name it. -/
theorem hasRows_of_filter {n : Mnem} {rows : List (Byte × ModeTag × Nat)} (hn : n ≠ .unofficial)
    (h : ((officialRows.filter fun r => r.mnem == n).all fun r => rows.contains (r.op, r.tag, r.base)) = true)
    (h' : (rows.all fun r => officialRows.contains ⟨r.1, n, r.2.1, r.2.2⟩) = true) : HasRows n rows := by
  simp only [List.all_eq_true, List.mem_filter, beq_iff_eq, List.contains_iff_mem] at h h'
  refine ⟨fun r hr => rowOf_official _ (h' r hr), fun op ho => ?_⟩
  rcases rowOf_mem_or op with ⟨hm, hop⟩ | hp
  · exact List.mem_map.2 ⟨_, h _ ⟨hm, ho⟩, hop⟩
  · rw [hp] at ho
    exact absurd ho.symm hn

/-! ## Flags -/

/-- `SetZN`, in the form the statements use. -/
theorem flagsAfter_setZN (p r : Byte) : FlagsAfter p (setZN r p) [(.z, decide (r = 0)), (.n, r.msb)] := by
  intro f
  cases f <;> simp [BitVec.msb_eq_getLsbD_last, Bool.beq_eq_decide_eq]

/-- One flag written. -/
theorem flagsAfter_setFlag (p : Byte) (f : Flag) (v : Bool) : FlagsAfter p (setFlag f v p) [(f, v)] := by
  intro g
  by_cases h : g = f <;> simp [h]

/-! ## Addresses -/

/-- A zero-page address (30_encoding.md R103). -/
theorem setWidth_eq_word (b : Byte) : b.setWidth 16 = word 0x00 b := by
  have := b.isLt
  apply BitVec.eq_of_toNat_eq
  rw [word_toNat, BitVec.toNat_setWidth]
  simp
  omega

/-- The page-cross flag as numbers. -/
theorem crosses_eq (ea base : Word) : crosses ea base = decide (ea.toNat / 256 ≠ base.toNat / 256) := by
  simp only [crosses, ← hiByte_toNat]
  rw [Bool.eq_iff_iff]
  simp [BitVec.toNat_eq]

/-- A zero-page pointer: two work-RAM cells, the second wrapping at 256, and no effect. -/
theorem zeroPagePointer_eq (s : State) (t : Byte) : zeroPagePointer s t =
    (word (s.wram.read ((t.toNat + 1) % 256)) (s.wram.read t.toNat), s) := by
  have h := t.isLt
  have e1 : (t.setWidth 16).toNat = t.toNat := by
    rw [BitVec.toNat_setWidth]
    omega
  have e2 : ((t + 1).setWidth 16).toNat = (t.toNat + 1) % 256 := by
    rw [BitVec.toNat_setWidth, BitVec.toNat_add]
    simp
    omega
  unfold zeroPagePointer
  rw [busRead_low s _ (by omega)]
  simp only
  rw [busRead_low s _ (by omega), e1, e2, Nat.mod_eq_of_lt (by omega : t.toNat < 2048),
    Nat.mod_eq_of_lt (by omega : (t.toNat + 1) % 256 < 2048)]

/-! ## The shared meanings -/

/-- The frame of an instruction that never costs a page-cross cycle. -/
theorem withMode_false (m : Mode) (f : State → State) (s : State) :
    withMode m false f s = f (resolve m s).2 := by
  simp only [withMode, Bool.and_false, Bool.toNat_false, Nat.add_zero]
  rfl

/-- An instruction that combines `A` with its operand. -/
theorem accumulate_eq (m : Mode) (result flags : Byte → Byte → Byte → Byte) (s : State) :
    accumulate m result flags s =
      { (operandOf m s).2 with
        a := result s.a (operandOf m s).1 s.p
        p := flags s.a (operandOf m s).1 s.p
        cycles := s.cycles + ((resolve m s).1 && true).toNat } := by
  simp [accumulate, withMode, withOperand, operandOf, State.setA, State.setP, State.setCycles]

/-- A compare. -/
theorem compareReg_eq (m : Mode) (extra : Bool) (reg : State → Byte) (s : State)
    (h : reg (operandOf m s).2 = reg s) :
    compareReg m extra reg s =
      { (operandOf m s).2 with
        p := compareFlags (reg s) (operandOf m s).1 s.p
        cycles := s.cycles + ((resolve m s).1 && extra).toNat } := by
  simp only [operandOf] at h
  simp [compareReg, withMode, withOperand, operandOf, h, State.setP, State.setCycles]

/-- A read-modify-write instruction. -/
theorem modify_eq (m : Mode) (result flags : Byte → Byte → Byte) (s : State) :
    Machine.modify m result flags s =
      { (if m = .imp then (operandOf m s).2.setA (result (operandOf m s).1 s.p)
         else busWrite (operandOf m s).2 (operandOf m s).2.ea (result (operandOf m s).1 s.p)) with
        p := flags (operandOf m s).1 s.p } := by
  cases m <;> simp [Machine.modify, withMode, withOperand, operandOf, writeBack, State.setA, State.setP,
    State.setCycles]

/-- A store. -/
theorem store_eq (m : Mode) (reg : State → Byte) (s : State) :
    store m reg s = busWrite (resolve m s).2 (resolve m s).2.ea (reg (resolve m s).2) := by
  rw [store, withMode_false]

/-- A branch on a flag. -/
theorem branchOn_eq (f : Flag) (want : Bool) (disp : Byte) (s : State) :
    branchOn f want disp s =
      if flag f s.p = want then
        { s with
          rel := disp.signExtend 16, pc := s.pc + disp.signExtend 16
          cycles := s.cycles + 1 + (crosses (s.pc + disp.signExtend 16) s.pc).toNat }
      else { s with rel := disp.signExtend 16 } := by
  by_cases h : flag f s.p = want <;>
    simp [branchOn, withMode, resolve, branch, State.setRel, State.setPc, State.setCycles, h]

/-- A 16-bit quantity pushed: two work-RAM cells, high byte first. -/
theorem pushWord_eq (s : State) (w : Word) :
    pushWord s w = { s with
      wram := (s.wram.write (stackCell s.sp) (hiByte w)).write (stackCell (s.sp - 1)) (loByte w)
      sp := s.sp - 2 } := by
  simp [pushWord, push_eq, State.setWram, State.setSp, BitVec.sub_sub]

/-- A 16-bit quantity pulled: two work-RAM cells, low byte first. -/
theorem pullWord_eq (s : State) :
    pullWord s = (word (s.wram.read (stackCell (s.sp + 2))) (s.wram.read (stackCell (s.sp + 1))),
      { s with sp := s.sp + 2 }) := by
  simp [pullWord, pull_eq, State.setSp, BitVec.add_assoc]

/-- The return from an interrupt. -/
theorem returnFromInterrupt_eq (s : State) :
    returnFromInterrupt s = { s with
      p := pulledFlags (s.wram.read (stackCell (s.sp + 1)))
      pc := word (s.wram.read (stackCell (s.sp + 3))) (s.wram.read (stackCell (s.sp + 2)))
      sp := s.sp + 3 } := by
  simp [returnFromInterrupt, pullWord_eq, pull_eq, State.setSp, State.setP, State.setPc, BitVec.add_assoc]

/-! ## Fetching -/

/-- A byte of the instruction stream is one bus read at `PC`, which advances. -/
theorem fetchByte_eq (s : State) :
    fetchByte s = ((busRead s s.pc).1, { (busRead s s.pc).2 with pc := s.pc + 1 }) := by
  simp only [fetchByte, busRead_pc]
  rfl

/-- What the opcode fetch leaves. -/
theorem fetchOpcode_eq (s : State) :
    fetchOpcode s = { (busRead s s.pc).2 with
      pc := s.pc + 1, opcode := (busRead s s.pc).1, p := setFlag .u true s.p
      cycles := (rowOf (busRead s s.pc).1).base } := by
  simp only [fetchOpcode, fetchByte_eq, State.setOpcode, State.setP, State.setCycles, busRead_p]

/-! ## Reading a vector -/

/-- Two plain reads of a 16-bit quantity: the two peeked bytes, and no effect (20_memory.md R60). -/
theorem read16_plain (s : State) (a : Word) (h : plainAddr s a) (h' : plainAddr s (a + 1)) :
    read16 s a = (word (memPeek s (a + 1)) (memPeek s a), s) := by
  rw [read16, busRead_plain h, busRead_plain h']

/-- An address above the register window is plain. -/
theorem plainAddr_high (s : State) (a : Word) (h : 0x3FFF < a.toNat) : plainAddr s a := by
  intro r
  have h1 : ¬ a ≤ 0x1FFF := by simp [BitVec.le_def]; omega
  have h2 : ¬ a ≤ 0x3FFF := by simp [BitVec.le_def]; omega
  unfold cpuReadTarget cpuTarget
  split
  · simp
  · rw [if_neg h1, if_neg h2]
    simp

/-- Above the register window a peek depends on the cartridge alone. -/
theorem memPeek_high (s t : State) (a : Word) (h : 0x3FFF < a.toNat) (hc : t.cart = s.cart) :
    memPeek t a = memPeek s a := by
  have h1 : ¬ a ≤ 0x1FFF := by simp [BitVec.le_def]; omega
  have h2 : ¬ a ≤ 0x3FFF := by simp [BitVec.le_def]; omega
  unfold memPeek cpuReadTarget cpuTarget prgBytes
  rw [hc, if_neg h1, if_neg h2]
  cases s.cart.bind fun c => c.mapper.cpuRead a <;> rfl

/-- The entry sequence through the IRQ/BRK vector. -/
theorem takeInterrupt_irqVector (s : State) (stacked live : Byte) :
    takeInterrupt s Config.irqVector stacked live = { s with
      sp := s.sp - 3, p := live
      pc := word (memPeek s 0xFFFF) (memPeek s 0xFFFE)
      wram := ((s.wram.write (stackCell s.sp) (hiByte s.pc)).write (stackCell (s.sp - 1))
        (loByte s.pc)).write (stackCell (s.sp - 2)) stacked } := by
  simp only [takeInterrupt, pushWord_eq, push_eq, Config.irqVector]
  rw [read16_plain _ _ (plainAddr_high _ _ (by decide)) (plainAddr_high _ _ (by decide))]
  rw [memPeek_high s _ (0xFFFE + 1) (by decide) (by rfl), memPeek_high s _ 0xFFFE (by decide) (by rfl)]
  simp [State.setP, State.setPc, State.setWram, State.setSp, BitVec.sub_sub]

/-- A 16-bit read changes the video registers at most. -/
theorem read16_state (s : State) (a : Word) :
    (read16 s a).2 = s.setVr (read16 s a).2.vr ∧ ReadEffects s.vr (read16 s a).2.vr := by
  obtain ⟨h, k⟩ := busRead_state s a
  obtain ⟨h', k'⟩ := busRead_state (busRead s a).2 (a + 1)
  refine ⟨?_, k.trans k'⟩
  simp only [read16]
  rw [h']
  simp only [State.setVr_vr]
  rw [h]
  rfl

/-! ## Running -/

/-- `runFor` is the host's run of this machine. -/
theorem runFor_eq_run (n : Nat) (s : State) : Host.Core.run core n s = runFor n s := by
  induction n generalizing s with
  | zero => rfl
  | succ n ih =>
    have hc : core.step s = step s := rfl
    rw [runFor]
    cases hs : step s with
    | next t =>
      simp only [Host.Core.run]
      rw [hc, hs]
      exact ih t
    | fault e =>
      simp only [Host.Core.run]
      rw [hc, hs]
      rfl
    | refused e =>
      simp only [Host.Core.run]
      rw [hc, hs]
      rfl

/-- One step more at the end of a run. -/
theorem runFor_succ (n : Nat) (s : State) : runFor (n + 1) s =
    match runFor n s with
    | .next t => step t
    | .fault e => .fault e
    | .refused e => .refused e := by
  induction n generalizing s with
  | zero =>
    simp only [runFor]
    cases step s <;> rfl
  | succ n ih =>
    rw [runFor, runFor]
    cases step s with
    | next t => exact ih t
    | fault e => rfl
    | refused e => rfl

end Sys2Proof.Machine
end

