-- ==== Sys2Proof/Laws/Frames.lean ====
section
/-! SUPPORT. What each address reaches, and what a bus write leaves alone. -/

namespace Sys2Proof.Machine

/-! ## Mapper 0 as numbers (20_memory.md R75, R76) -/

theorem mapper0_cpuRead (p c : Byte) (a : Word) : (Mapper.mapper0 p c).cpuRead a =
    if 0x8000 ≤ a.toNat then some (mapper0PrgIndex p a) else none := by
  simp only [Mapper.cpuRead, BitVec.le_def]
  rfl

theorem mapper0_cpuWrite (p c : Byte) (a : Word) : (Mapper.mapper0 p c).cpuWrite a =
    if 0x8000 ≤ a.toNat then some (mapper0PrgIndex p a) else none := by
  simp only [Mapper.cpuWrite, BitVec.le_def]
  rfl

theorem mapper0PrgIndex_eq {p : Byte} (h : p = 1 ∨ p = 2) (a : Word) :
    mapper0PrgIndex p a = a.toNat % (p.toNat * 16384) := by
  rcases h with rfl | rfl <;> simp only [mapper0PrgIndex]
  · exact Nat.and_two_pow_sub_one_eq_mod _ 14
  · exact Nat.and_two_pow_sub_one_eq_mod _ 15

/-- No mapper claims a video read at 0x2000 or above. -/
theorem chrRead_high (s : State) (a : BitVec 14) (h : 0x2000 ≤ a.toNat) :
    (s.cart.bind fun c => c.mapper.chrRead a) = none := by
  cases s.cart with
  | none => rfl
  | some c =>
    simp only [Option.bind_some, Mapper.chrRead]
    rw [if_neg]
    rw [BitVec.le_def]
    exact Nat.not_le.2 (Nat.lt_of_lt_of_le (by decide) h)

/-- No mapper claims a video write at 0x2000 or above. -/
theorem chrWrite_high (s : State) (a : BitVec 14) (h : 0x2000 ≤ a.toNat) :
    (s.cart.bind fun c => c.mapper.chrWrite a) = none := by
  cases s.cart with
  | none => rfl
  | some c =>
    simp only [Option.bind_some, Mapper.chrWrite]
    rw [if_neg]
    rw [BitVec.le_def]
    exact fun e => Nat.not_le.2 (Nat.lt_of_lt_of_le (by decide) h) e.1

/-! ## The register window (20_memory.md R65) -/

/-- The register of an address, by the address modulo 8. -/
theorem VReg.ofAddr_eq (a : Word) : VReg.ofAddr a =
    match a.toNat % 8 with
    | 0 => .control
    | 1 => .mask
    | 2 => .status
    | 3 => .oamAddress
    | 4 => .oamData
    | 5 => .scroll
    | 6 => .address
    | _ => .data := by
  have h : (a &&& 7).toNat = a.toNat % 8 := Nat.and_two_pow_sub_one_eq_mod _ 3
  have h8 : a.toNat % 8 < 8 := Nat.mod_lt _ (by decide)
  generalize a.toNat % 8 = n at *
  interval_cases n <;> simp only [VReg.ofAddr, h]

theorem cpuTarget_window (a : Word) (h1 : 0x2000 ≤ a.toNat) (h2 : a.toNat ≤ 0x3FFF) :
    cpuTarget none a = .vreg (.ofAddr a) := by
  have g1 : ¬ a ≤ 0x1FFF := by simp [BitVec.le_def]; omega
  have g2 : a ≤ 0x3FFF := by simp [BitVec.le_def]; omega
  simp only [cpuTarget, if_neg g1, if_pos g2]

theorem cpuReadTarget_window (s : State) (a : Word) (h1 : 0x2000 ≤ a.toNat) (h2 : a.toNat ≤ 0x3FFF) :
    cpuReadTarget s a = .vreg (.ofAddr a) := by
  rw [cpuReadTarget_low _ _ (by omega), cpuTarget_window a h1 h2]

theorem cpuWriteTarget_window (s : State) (a : Word) (h1 : 0x2000 ≤ a.toNat) (h2 : a.toNat ≤ 0x3FFF) :
    cpuWriteTarget s a = .vreg (.ofAddr a) := by
  rw [cpuWriteTarget_low _ _ (by omega), cpuTarget_window a h1 h2]

/-- Only an address of the window reaches a register. -/
theorem window_of_vreg {s : State} {a : Word} {r : VReg} (h : cpuReadTarget s a = .vreg r) :
    0x2000 ≤ a.toNat ∧ a.toNat ≤ 0x3FFF ∧ r = .ofAddr a := by
  unfold cpuReadTarget cpuTarget at h
  split at h
  · cases h
  · split at h
    · cases h
    · split at h
      · rename_i h1 h2
        simp [BitVec.le_def] at h1 h2 h
        exact ⟨by omega, by omega, h.symm⟩
      · cases h

/-! ## Reading depends on the storage alone -/

/-- A plain address peeks alike in states with the same cartridge and work RAM. -/
theorem memPeek_congr {s t : State} (hc : t.cart = s.cart) (hw : t.wram = s.wram) {a : Word}
    (ha : plainAddr s a) : memPeek t a = memPeek s a := by
  have e : cpuReadTarget t a = cpuReadTarget s a := by simp [cpuReadTarget, hc]
  unfold memPeek
  rw [e]
  cases h : cpuReadTarget s a <;> simp [prgBytes, hc, hw]
  exact absurd h (ha _)

/-- A plain address peeks alike in states whose storage behind it agrees. -/
theorem memPeek_of_read {s t : State} {a : Word} (ht : cpuReadTarget t a = cpuReadTarget s a)
    (hw : ∀ i, cpuReadTarget s a = .wram i → t.wram.read i = s.wram.read i)
    (hp : ∀ i, cpuReadTarget s a = .prg i → (prgBytes t).read i = (prgBytes s).read i)
    (ha : plainAddr s a) : memPeek t a = memPeek s a := by
  unfold memPeek
  rw [ht]
  cases h : cpuReadTarget s a
  · exact hp _ h
  · exact hw _ h
  · exact absurd h (ha _)
  · rfl

/-- A video address reaches the same in states with the same cartridge and parameters. -/
theorem videoReadTarget_congr {s t : State} (hc : t.cart = s.cart) (hs : t.params = s.params)
    (a : BitVec 14) : videoReadTarget t a = videoReadTarget s a := by
  simp [videoReadTarget, mirroring, graphicsSize, hc, hs]

/-- A video address that reaches a byte, or nothing, reads alike in states with the same cartridge,
parameters, Mask, nametables and palette. -/
theorem videoRead_congr {s t : State} (hc : t.cart = s.cart) (hs : t.params = s.params)
    (hm : t.vr.mask = s.vr.mask) (hn : t.vr.nametable = s.vr.nametable)
    (hp : t.vr.palette = s.vr.palette) {a : BitVec 14} (ha : ∀ i, videoReadTarget s a ≠ .absent i) :
    videoRead t a = videoRead s a := by
  unfold videoRead
  rw [videoReadTarget_congr hc hs]
  cases h : videoReadTarget s a <;> simp [chrBytes, paletteEntry, hc, hm, hn, hp]
  exact absurd h (ha _)

/-! ## What a bus write leaves alone -/

/-- A cartridge keeps its header and its mapper. -/
theorem busWrite_header (s : State) (a : Word) (v : Byte) :
    (busWrite s a v).cart.map (fun c => (c.prgBanks, c.chrBanks, c.mapperId, c.mirror, c.mapper)) =
      s.cart.map (fun c => (c.prgBanks, c.chrBanks, c.mapperId, c.mirror, c.mapper)) := by
  unfold busWrite
  split
  · unfold writePrg
    split
    · simp only [State.setCart]
      cases s.cart <;> rfl
    · rfl
  · rfl
  · rename_i r _
    cases r <;> try rfl
    simp only [vregWrite, advanceData, videoWrite]
    split <;> try rfl
    simp only [State.setVr, writeChr, State.setCart]
    cases s.cart <;> rfl
  · rfl

/-- What a bus write can change of the video registers. -/
theorem busWrite_vr (s : State) (a : Word) (v : Byte) :
    (busWrite s a v).vr = writtenRegs (cpuWriteTarget s a) s.vr (busWrite s a v).vr := by
  unfold busWrite
  cases cpuWriteTarget s a with
  | prg i =>
    simp only [writePrg]
    split <;> rfl
  | wram i => rfl
  | undecoded => rfl
  | vreg r =>
    cases r <;> try rfl
    · simp only [vregWrite, addressWrite]
      split <;> rfl
    · simp only [vregWrite, advanceData, videoWrite]
      split <;> rfl

/-- Resolving a mode changes no video register, but for a pointer of IND in the register window. -/
theorem resolve_vr {m : Mode} {s : State}
    (h : ∀ ptr, m = .ind ptr → plainAddr s ptr ∧ plainAddr s (pointerHighAddr ptr)) :
    (resolve m s).2.vr = s.vr := by
  cases m <;> try rfl
  · obtain ⟨h1, h2⟩ := h _ rfl
    simp only [resolve]
    rw [busRead_plain h1, busRead_plain h2]
    rfl
  · simp only [resolve, zeroPagePointer_eq, State.setEa_vr]
  · simp only [resolve, zeroPagePointer_eq, State.setEa_vr]

/-- Reading an operand outside the register window changes no video register. -/
theorem operand_vr {m : Mode} {s : State} (h : plainAddr s s.ea) : (operand m s).2.vr = s.vr := by
  cases m <;> try rfl
  all_goals
    simp only [operand]
    rw [busRead_plain h]
    rfl

/-- The video addresses of each range reach what R262 says. -/
theorem videoTarget_nametable {a : BitVec 14} (h1 : 0x2000 ≤ a.toNat) (h2 : a.toNat ≤ 0x3EFF) (size : Nat)
    (mode : Mirroring) : videoTarget none size mode a = .nametable (nametableIndex mode a) := by
  have g : 0x2000 ≤ a ∧ a ≤ 0x3EFF := ⟨BitVec.le_def.2 h1, BitVec.le_def.2 h2⟩
  simp only [videoTarget, if_pos g]

theorem videoTarget_palette {a : BitVec 14} (h : 0x3F00 ≤ a.toNat) (size : Nat) (mode : Mirroring) :
    videoTarget none size mode a = .palette (paletteIndex a) := by
  have g1 : ¬ (0x2000 ≤ a ∧ a ≤ 0x3EFF) := fun g => absurd (h.trans (BitVec.le_def.1 g.2)) (by decide)
  have g2 : 0x3F00 ≤ a := BitVec.le_def.2 h
  simp only [videoTarget, if_neg g1, if_pos g2]

theorem videoTarget_low {a : BitVec 14} (h : a.toNat < 0x2000) (size : Nat) (mode : Mirroring) :
    videoTarget none size mode a = .unclaimed := by
  have g1 : ¬ (0x2000 ≤ a ∧ a ≤ 0x3EFF) := fun g => absurd (BitVec.le_def.1 g.1) (Nat.not_le.2 h)
  have g2 : ¬ 0x3F00 ≤ a := fun g => absurd (BitVec.le_def.1 g) (Nat.not_le.2 (h.trans (by decide)))
  simp only [videoTarget, if_neg g1, if_neg g2]

/-- Where the memories are in canonical form, a bus write changes the one byte it is translated to. -/
structure WriteEffects (s t : State) (target : CpuTarget) (data : VideoTarget) : Prop where
  reads : ∀ b, cpuReadTarget t b = cpuReadTarget s b
  wram : ∀ i, target ≠ .wram i → t.wram.read i = s.wram.read i
  prg : ∀ i, target ≠ .prg i → (prgBytes t).read i = (prgBytes s).read i
  chr : ∀ i, (target = .vreg .data → data ≠ .chr i) → (chrBytes t).read i = (chrBytes s).read i
  nametable : ∀ i, (target = .vreg .data → data ≠ .nametable i) →
    t.vr.nametable.read i = s.vr.nametable.read i
  palette : ∀ i, (target = .vreg .data → data ≠ .palette i) → t.vr.palette.read i = s.vr.palette.read i

theorem busWrite_effects (s : State) (a : Word) (v : Byte) (hw : s.wram.wf = true)
    (hn : s.vr.nametable.wf = true) (hp : s.vr.palette.wf = true)
    (hc : ∀ c, s.cart = some c → c.prg.wf = true ∧ c.chr.wf = true) :
    WriteEffects s (busWrite s a v) (cpuWriteTarget s a) (videoWriteTarget s (dataAddr s.vr)) := by
  have same : WriteEffects s s (cpuWriteTarget s a) (videoWriteTarget s (dataAddr s.vr)) :=
    ⟨fun _ => rfl, fun _ _ => rfl, fun _ _ => rfl, fun _ _ => rfl, fun _ _ => rfl, fun _ _ => rfl⟩
  unfold busWrite
  cases ht : cpuWriteTarget s a with
  | undecoded =>
    rw [ht] at same
    exact same
  | wram i =>
    refine ⟨fun _ => rfl, fun j hj => ?_, fun _ _ => rfl, fun _ _ => rfl, fun _ _ => rfl, fun _ _ => rfl⟩
    have hij : i ≠ j := fun e => hj (e ▸ rfl)
    rw [State.setWram_wram, Memory.read_write hw, if_neg hij]
  | prg i =>
    simp only [writePrg]
    split
    · refine ⟨fun b => ?_, fun _ _ => rfl, fun j hj => ?_, fun j _ => ?_, fun _ _ => rfl, fun _ _ => rfl⟩
      · simp only [cpuReadTarget, State.setCart]
        cases s.cart <;> rfl
      · have hij : i ≠ j := fun e => hj (e ▸ rfl)
        cases hs : s.cart <;> simp only [prgBytes, State.setCart, hs]
        · rfl
        · exact (Memory.read_write (hc _ hs).1 i j v).trans (if_neg hij)
      · simp only [chrBytes, State.setCart]
        cases s.cart <;> rfl
    · rw [ht] at same
      exact same
  | vreg r =>
    rw [ht] at same
    cases r <;> try exact same
    · exact ⟨fun _ => rfl, fun _ _ => rfl, fun _ _ => rfl, fun _ _ => rfl, fun _ _ => rfl, fun _ _ => rfl⟩
    · exact ⟨fun _ => rfl, fun _ _ => rfl, fun _ _ => rfl, fun _ _ => rfl, fun _ _ => rfl, fun _ _ => rfl⟩
    · simp only [vregWrite, addressWrite]
      split
      · exact ⟨fun _ => rfl, fun _ _ => rfl, fun _ _ => rfl, fun _ _ => rfl, fun _ _ => rfl, fun _ _ => rfl⟩
      · exact ⟨fun _ => rfl, fun _ _ => rfl, fun _ _ => rfl, fun _ _ => rfl, fun _ _ => rfl, fun _ _ => rfl⟩
    · simp only [vregWrite, advanceData, videoWrite]
      cases hd : videoWriteTarget s (dataAddr s.vr) with
      | unclaimed =>
        exact ⟨fun _ => rfl, fun _ _ => rfl, fun _ _ => rfl, fun _ _ => rfl, fun _ _ => rfl, fun _ _ => rfl⟩
      | absent =>
        exact ⟨fun _ => rfl, fun _ _ => rfl, fun _ _ => rfl, fun _ _ => rfl, fun _ _ => rfl, fun _ _ => rfl⟩
      | chr i =>
        refine ⟨fun b => ?_, fun _ _ => rfl, fun j _ => ?_, fun j hj => ?_, fun _ _ => rfl, fun _ _ => rfl⟩
        · simp only [cpuReadTarget, State.setVr, writeChr, State.setCart]
          cases s.cart <;> rfl
        · simp only [prgBytes, State.setVr, writeChr, State.setCart]
          cases s.cart <;> rfl
        · have hij : i ≠ j := fun e => hj rfl (e ▸ rfl)
          cases hs : s.cart <;> simp only [chrBytes, State.setVr, writeChr, State.setCart, hs]
          · rfl
          · exact (Memory.read_write (hc _ hs).2 i j v).trans (if_neg hij)
      | nametable i =>
        refine ⟨fun _ => rfl, fun _ _ => rfl, fun _ _ => rfl, fun _ _ => rfl, fun j hj => ?_, fun _ _ => rfl⟩
        have hij : i ≠ j := fun e => hj rfl (e ▸ rfl)
        exact (Memory.read_write hn i j v).trans (if_neg hij)
      | palette i =>
        refine ⟨fun _ => rfl, fun _ _ => rfl, fun _ _ => rfl, fun _ _ => rfl, fun _ _ => rfl, fun j hj => ?_⟩
        have hij : i ≠ j := fun e => hj rfl (e ▸ rfl)
        exact (Memory.read_write hp i j v).trans (if_neg hij)

/-- The same, from the invariant. -/
theorem Inv.busWrite_effects {s : State} (h : Inv s) (a : Word) (v : Byte) :
    WriteEffects s (Machine.busWrite s a v) (cpuWriteTarget s a) (videoWriteTarget s (dataAddr s.vr)) :=
  Machine.busWrite_effects s a v h.wram.1 h.nametable.1 h.palette.1
    fun c hc => ⟨(h.cart c hc).prg.1, (h.cart c hc).chr.1⟩

/-! ## Constructed bytes -/

/-- The bytes of a memory made of a list. -/
theorem read_ofBytes (bs : List Byte) (k i : Nat) (h : k ≤ i) :
    (Memory.ofBytes k bs).read i = bs.getD (i - k) 0 := by
  induction bs generalizing k i with
  | nil => simp [Memory.ofBytes, Memory.unlisted]
  | cons b bs ih =>
    rw [Memory.ofBytes, Memory.read_cell_append]
    by_cases hi : k = i
    · subst hi
      simp
      intro hb
      rw [Memory.read_below (Memory.wfFrom_ofBytes (k + 1) bs) (by omega), hb]
    · rw [ih (k + 1) i (by omega), show i - k = (i - (k + 1)) + 1 by omega]
      simp [hi]

/-- The header's mapper id as a number (20_memory.md R84). -/
theorem headerMapperId_toNat (byte6 byte7 : Byte) :
    (headerMapperId byte6 byte7).toNat = byte7.toNat / 16 * 16 + byte6.toNat / 16 := by
  have h : ∀ b : Byte, (b.extractLsb' 4 4).toNat = b.toNat / 16 := by decide +kernel
  have h6 := h byte6
  have h7 := h byte7
  have hl := (byte6.extractLsb' 4 4).isLt
  unfold headerMapperId
  rw [BitVec.toNat_append, h6, h7, Nat.shiftLeft_eq, Nat.mul_comm, ← Nat.two_pow_add_eq_or_of_lt (by omega)]

end Sys2Proof.Machine
end

