-- ==== Sys2Proof/Laws/Inv.lean ====
section
/-! SUPPORT. The parts of a step that keep the invariant of Safety.lean. -/

namespace Sys2Proof.Machine

/-- The live flags once a reset has happened (10_state.md R26, R27). -/
def LiveFlags (s : State) (p : Byte) : Prop := s.wasReset = true → flag .u p = true ∧ flag .b p = false

/-- Status bits 4 to 0 lie among the bits a read leaves alone. -/
theorem ReadEffects.status_low {v w : VideoRegs} (h : ReadEffects v w) (hv : v.status &&& 0x1F = 0) :
    w.status &&& 0x1F = 0 := by
  have e : ∀ x : Byte, x &&& 0x1F = (x &&& 0x7F) &&& 0x1F := by decide +kernel
  rw [e, h.status, ← e, hv]

/-- A state with the same memories, whose video registers differ by read effects, keeps the invariant. -/
theorem Inv.of_reads {s t : State} (h : Inv s) (hp : t.params = s.params) (hw : t.wram = s.wram)
    (hv : ReadEffects s.vr t.vr) (hc : t.cart = s.cart) (hr : t.wasReset = s.wasReset)
    (hf : LiveFlags s t.p) : Inv t where
  params := hp ▸ h.params
  wram := hw ▸ h.wram
  nametable := hv.nametable ▸ h.nametable
  palette := hv.palette ▸ h.palette
  cart := by
    rw [hc, hp]
    exact h.cart
  flags hs := hf (hr ▸ hs)
  status hs := hv.status_low (h.status (hr ▸ hs))

/-- Register fields other than `P` do not matter. -/
theorem Inv.of_eq {s t : State} (h : Inv s) (hp : t.params = s.params) (hw : t.wram = s.wram)
    (hv : t.vr = s.vr) (hc : t.cart = s.cart) (hr : t.wasReset = s.wasReset) (hf : LiveFlags s t.p) :
    Inv t :=
  h.of_reads hp hw (hv ▸ ReadEffects.refl _) hc hr hf

/-- Resolving a mode and reading an operand keep the invariant. -/
theorem Inv.of_modeEffects {s t : State} (h : Inv s) (e : ModeEffects s t) : Inv t :=
  h.of_reads e.params_eq e.wram_eq e.vr e.cart_eq e.wasReset_eq (by rw [e.p_eq]; exact h.flags)

/-- A bus read keeps the invariant. -/
theorem Inv.busRead {s : State} (h : Inv s) (a : Word) : Inv (busRead s a).2 :=
  h.of_modeEffects (.busRead s a)

/-- A store below 2048 keeps the work RAM as it should be. -/
theorem Inv.setWram {s : State} (h : Inv s) {i : Nat} (hi : i < Config.wramSize) (v : Byte) :
    Inv (s.setWram (s.wram.write i v)) where
  params := h.params
  wram := ⟨Memory.wf_write h.wram.1 _ _, Memory.within_write hi h.wram.2⟩
  nametable := h.nametable
  palette := h.palette
  cart := h.cart
  flags := h.flags
  status := h.status

/-- A cartridge replaced by a well-formed one. -/
theorem Inv.setCart {s : State} (h : Inv s) (c : Option Cartridge)
    (hc : ∀ d, c = some d → CartridgeWf s.params d) : Inv (s.setCart c) where
  params := h.params
  wram := h.wram
  nametable := h.nametable
  palette := h.palette
  cart := hc
  flags := h.flags
  status := h.status

/-- Video registers replaced. -/
theorem Inv.setVr {s : State} (h : Inv s) (v : VideoRegs)
    (hn : v.nametable.wf ∧ v.nametable.within (2 * Config.nametableSize))
    (hp : v.palette.wf ∧ v.palette.within Config.paletteSize)
    (hs : v.status &&& 0x1F = 0 ∨ v.status = s.vr.status) : Inv (s.setVr v) where
  params := h.params
  wram := h.wram
  nametable := hn
  palette := hp
  cart := h.cart
  flags := h.flags
  status hr := by
    rcases hs with hs | hs
    · exact hs
    · rw [State.setVr_vr, hs]
      exact h.status hr

/-- Every program index mapper 0 answers lies in the declared banks. -/
theorem mapper0PrgIndex_lt {banks : Byte} (h : banks = 1 ∨ banks = 2) (a : Word) :
    mapper0PrgIndex banks a < banks.toNat * Config.prgBankSize := by
  have h1 : (a &&& 0x3FFF).toNat = a.toNat % 2 ^ 14 := Nat.and_two_pow_sub_one_eq_mod _ 14
  have h2 : (a &&& 0x7FFF).toNat = a.toNat % 2 ^ 15 := Nat.and_two_pow_sub_one_eq_mod _ 15
  rcases h with rfl | rfl
  · simp only [mapper0PrgIndex, if_true, h1]
    exact Nat.mod_lt _ (by decide)
  · simp only [mapper0PrgIndex, show ¬ (2 : Byte) = 1 by decide, if_false, h2]
    exact Nat.mod_lt _ (by decide)

/-- Every nametable cell lies in the two nametables. -/
theorem nametableIndex_lt (mode : Mirroring) (a : BitVec 14) :
    nametableIndex mode a < 2 * Config.nametableSize := by
  have h : ((a &&& 0x0FFF) &&& 0x03FF).toNat < 1024 := by
    rw [BitVec.toNat_and]
    exact Nat.and_lt_two_pow _ (n := 10) (by decide)
  unfold nametableIndex
  have hb : ∀ b : Bool, b.toNat ≤ 1 := by decide
  have h0 := hb (((a &&& 0x0FFF) >>> 10).getLsbD 0)
  have h1 := hb (((a &&& 0x0FFF) >>> 10).getLsbD 1)
  cases mode <;> simp only [Config.nametableSize] <;> omega

/-- Every palette entry lies in the palette. -/
theorem paletteIndex_lt (a : BitVec 14) : paletteIndex a < Config.paletteSize := by
  have h : (a &&& 0x1F).toNat < 32 := by
    rw [BitVec.toNat_and]
    exact Nat.and_lt_two_pow _ (n := 5) (by decide)
  have e : ∀ i : BitVec 14, i = 0x10 ∨ i = 0x14 ∨ i = 0x18 ∨ i = 0x1C → (i - 0x10).toNat < 32 := by
    rintro i (rfl | rfl | rfl | rfl) <;> decide
  unfold paletteIndex
  simp only [Config.paletteSize]
  split
  · rename_i hi
    exact e _ hi
  · exact h

/-- A video write keeps the invariant. -/
theorem Inv.videoWrite {s : State} (h : Inv s) (a : BitVec 14) (v : Byte) : Inv (videoWrite s a v) := by
  unfold Machine.videoWrite videoWriteTarget
  cases hc : s.cart.bind fun c => c.mapper.chrWrite a with
  | some i =>
    by_cases ht : i < graphicsSize s
    case neg =>
      simp only [videoTarget, if_neg ht]
      exact h
    simp only [videoTarget, if_pos ht]
    refine h.setCart _ fun d hd => ?_
    obtain ⟨c, hs, rfl⟩ := Option.map_eq_some_iff.1 hd
    have w := h.cart c hs
    have hi : i < chrSize s.params c := by
      simpa [graphicsSize, hs] using ht
    exact ⟨w.prgBanks, w.prg, ⟨Memory.wf_write w.chr.1 _ _,
      Memory.within_write hi w.chr.2⟩, w.mapperId, w.mapper⟩
  | none =>
    simp only [videoTarget]
    split
    · rename_i heq
      split at heq
      · cases heq
      · split at heq <;> cases heq
    · exact h
    · rename_i i heq
      have hi : i < 2 * Config.nametableSize := by
        split at heq
        · cases heq
          exact nametableIndex_lt _ _
        · split at heq <;> cases heq
      exact h.setVr _ ⟨Memory.wf_write h.nametable.1 _ _, Memory.within_write hi h.nametable.2⟩
        h.palette (.inr rfl)
    · rename_i i heq
      have hi : i < Config.paletteSize := by
        split at heq
        · cases heq
        · split at heq
          · cases heq
            exact paletteIndex_lt _
          · cases heq
      exact h.setVr _ h.nametable ⟨Memory.wf_write h.palette.1 _ _, Memory.within_write hi h.palette.2⟩
        (.inr rfl)
    · exact h

/-- A write of a video register keeps the invariant. -/
theorem Inv.vregWrite {s : State} (h : Inv s) (r : VReg) (v : Byte) : Inv (vregWrite s r v) := by
  cases r with
  | control => exact h.setVr _ h.nametable h.palette (.inr rfl)
  | mask => exact h.setVr _ h.nametable h.palette (.inr rfl)
  | address =>
    simp only [Machine.vregWrite, addressWrite]
    split
    · exact h.setVr _ h.nametable h.palette (.inr rfl)
    · exact h.setVr _ h.nametable h.palette (.inr rfl)
  | data =>
    have k := h.videoWrite (dataAddr s.vr) v
    exact k.setVr _ k.nametable k.palette (.inr rfl)
  | status => exact h
  | oamAddress => exact h
  | oamData => exact h
  | scroll => exact h

/-- A bus write keeps the invariant. -/
theorem Inv.busWrite {s : State} (h : Inv s) (a : Word) (v : Byte) : Inv (busWrite s a v) := by
  unfold Machine.busWrite cpuWriteTarget
  cases hc : s.cart.bind fun c => c.mapper.cpuWrite a with
  | some i =>
    simp only [cpuTarget, writePrg]
    split
    · refine h.setCart _ fun d hd => ?_
      obtain ⟨c, hs, rfl⟩ := Option.map_eq_some_iff.1 hd
      have w := h.cart c hs
      have hi : i < c.prgBanks.toNat * Config.prgBankSize := by
        rw [hs, Option.bind_some, w.mapper] at hc
        simp only [Mapper.cpuWrite] at hc
        split at hc
        · cases hc
          exact mapper0PrgIndex_lt w.prgBanks a
        · cases hc
      exact ⟨w.prgBanks, ⟨Memory.wf_write w.prg.1 _ _, Memory.within_write hi w.prg.2⟩, w.chr, w.mapperId, w.mapper⟩
    · exact h
  | none =>
    simp only [cpuTarget]
    split
    · rename_i heq
      split at heq
      · cases heq
      · split at heq <;> cases heq
    · rename_i i heq
      have hi : i < Config.wramSize := by
        split at heq
        · cases heq
          rw [BitVec.toNat_and]
          exact Nat.and_lt_two_pow _ (n := 11) (by decide)
        · split at heq <;> cases heq
      exact h.setWram hi v
    · exact h.vregWrite _ v
    · exact h

/-- A push keeps the invariant. -/
theorem Inv.push {s : State} (h : Inv s) (v : Byte) : Inv (push s v) := by
  have k := h.busWrite (stackAddr s.sp) v
  exact k.of_eq rfl rfl rfl rfl rfl k.flags

/-- A pull keeps the invariant. -/
theorem Inv.pull {s : State} (h : Inv s) : Inv (pull s).2 := by
  have k : Inv (s.setSp (s.sp + 1)) := h.of_eq rfl rfl rfl rfl rfl h.flags
  exact k.busRead _

/-- Pushing a 16-bit quantity keeps the invariant. -/
theorem Inv.pushWord {s : State} (h : Inv s) (w : Word) : Inv (pushWord s w) := (h.push _).push _

/-- Pulling a 16-bit quantity keeps the invariant. -/
theorem Inv.pullWord {s : State} (h : Inv s) : Inv (pullWord s).2 := h.pull.pull

/-- A 16-bit read keeps the invariant. -/
theorem Inv.read16 {s : State} (h : Inv s) (a : Word) : Inv (read16 s a).2 := (h.busRead _).busRead _

/-- `P` replaced by one whose U and B are as they should be. -/
theorem Inv.setP {s : State} (h : Inv s) {p : Byte} (hf : LiveFlags s p) : Inv (s.setP p) :=
  h.of_eq rfl rfl rfl rfl rfl hf

/-- Taking an interrupt keeps the invariant, if the new live `P` is as it should be. -/
theorem Inv.takeInterrupt {s : State} (h : Inv s) (vector : Word) (stacked : Byte) {live : Byte}
    (hf : LiveFlags s live) : Inv (takeInterrupt s vector stacked live) := by
  have k := (h.pushWord s.pc).push stacked
  have hr : (Machine.push (Machine.pushWord s s.pc) stacked).wasReset = s.wasReset := by
    simp [push_eq, pushWord_eq]
  have k := k.setP (p := live) fun hs => hf (hr ▸ hs)
  have k := k.read16 vector
  exact k.of_eq rfl rfl rfl rfl rfl k.flags

end Sys2Proof.Machine
end

