-- ==== Sys2Proof/Laws/PerInstr.lean ====
section
/-! SUPPORT. Statements about every instruction as syntax, one lemma per constructor. -/

namespace Sys2Proof.Laws.Encoding

/-- A well-formed instruction is encoded as one opcode byte, whose table entry names its mnemonic and its
mode, followed by the mode's operand bytes (30_encoding.md R100, R117). -/
def Statement (i : Instr) : Prop :=
  i.WellFormed →
    ∃ op, encode i = op :: i.mode.bytes ∧ (rowOf op).mnem = i.mnem ∧ (rowOf op).tag = i.mode.tag

/-- The statement for an official instruction, from the table having its mnemonic with its mode. -/
theorem of_isSome {i : Instr} (h : i.WellFormed → (opcodeOf i.mnem i.mode.tag).isSome = true)
    (he : encode i = ((opcodeOf i.mnem i.mode.tag).map fun op => op :: i.mode.bytes).getD []) :
    Statement i := by
  intro hw
  obtain ⟨op, hop⟩ := Option.isSome_iff_exists.1 (h hw)
  exact ⟨op, by rw [he, hop]; rfl, rowOf_opcodeOf hop⟩

/-- The modes of each official mnemonic, as WellFormed.lean admits them. -/
def modesOf : Mnem → List ModeTag
  | .adc => aluModes
  | .sbc => aluModes
  | .and => aluModes
  | .ora => aluModes
  | .eor => aluModes
  | .bit => [ModeTag.zp0, .abs]
  | .asl => shiftModes
  | .lsr => shiftModes
  | .rol => shiftModes
  | .ror => shiftModes
  | .cmp => aluModes
  | .cpx => [ModeTag.imm, .zp0, .abs]
  | .cpy => [ModeTag.imm, .zp0, .abs]
  | .inc => stepModes
  | .dec => stepModes
  | .inx => [.imp]
  | .iny => [.imp]
  | .dex => [.imp]
  | .dey => [.imp]
  | .lda => aluModes
  | .ldx => [ModeTag.imm, .zp0, .zpy, .abs, .aby]
  | .ldy => [ModeTag.imm, .zp0, .zpx, .abs, .abx]
  | .sta => [ModeTag.zp0, .zpx, .abs, .abx, .aby, .izx, .izy]
  | .stx => [ModeTag.zp0, .zpy, .abs]
  | .sty => [ModeTag.zp0, .zpx, .abs]
  | .tax => [.imp]
  | .tay => [.imp]
  | .txa => [.imp]
  | .tya => [.imp]
  | .tsx => [.imp]
  | .txs => [.imp]
  | .php => [.imp]
  | .plp => [.imp]
  | .pha => [.imp]
  | .pla => [.imp]
  | .jmp => [ModeTag.abs, .ind]
  | .bpl => [.rel]
  | .bmi => [.rel]
  | .bvc => [.rel]
  | .bvs => [.rel]
  | .bcc => [.rel]
  | .bcs => [.rel]
  | .bne => [.rel]
  | .beq => [.rel]
  | .jsr => [.abs]
  | .rts => [.imp]
  | .clc => [.imp]
  | .sec => [.imp]
  | .cli => [.imp]
  | .sei => [.imp]
  | .cld => [.imp]
  | .sed => [.imp]
  | .clv => [.imp]
  | .brk => [.imp]
  | .rti => [.imp]
  | .nop => [.imp]
  | .unofficial => []

/-- The table has every one of them. -/
theorem modesOf_isSome (n : Mnem) : ∀ t ∈ modesOf n, (opcodeOf n t).isSome = true := by
  cases n <;> decide +kernel

/-- A mode whose tag a mnemonic admits has an opcode. -/
theorem isSome_of_contains {n : Mnem} {m : Mode} (h : (modesOf n).contains m.tag = true) :
    (opcodeOf n m.tag).isSome = true :=
  modesOf_isSome n m.tag (by simpa using h)

theorem adc (m : Mode) : Statement (.adc m) :=
  of_isSome (isSome_of_contains (n := .adc)) rfl

theorem sbc (m : Mode) : Statement (.sbc m) :=
  of_isSome (isSome_of_contains (n := .sbc)) rfl

theorem and (m : Mode) : Statement (.and m) :=
  of_isSome (isSome_of_contains (n := .and)) rfl

theorem ora (m : Mode) : Statement (.ora m) :=
  of_isSome (isSome_of_contains (n := .ora)) rfl

theorem eor (m : Mode) : Statement (.eor m) :=
  of_isSome (isSome_of_contains (n := .eor)) rfl

theorem bit (m : Mode) : Statement (.bit m) :=
  of_isSome (isSome_of_contains (n := .bit)) rfl

theorem asl (m : Mode) : Statement (.asl m) :=
  of_isSome (isSome_of_contains (n := .asl)) rfl

theorem lsr (m : Mode) : Statement (.lsr m) :=
  of_isSome (isSome_of_contains (n := .lsr)) rfl

theorem rol (m : Mode) : Statement (.rol m) :=
  of_isSome (isSome_of_contains (n := .rol)) rfl

theorem ror (m : Mode) : Statement (.ror m) :=
  of_isSome (isSome_of_contains (n := .ror)) rfl

theorem cmp (m : Mode) : Statement (.cmp m) :=
  of_isSome (isSome_of_contains (n := .cmp)) rfl

theorem cpx (m : Mode) : Statement (.cpx m) :=
  of_isSome (isSome_of_contains (n := .cpx)) rfl

theorem cpy (m : Mode) : Statement (.cpy m) :=
  of_isSome (isSome_of_contains (n := .cpy)) rfl

theorem inc (m : Mode) : Statement (.inc m) :=
  of_isSome (isSome_of_contains (n := .inc)) rfl

theorem dec (m : Mode) : Statement (.dec m) :=
  of_isSome (isSome_of_contains (n := .dec)) rfl

theorem inx : Statement (.inx) :=
  of_isSome (fun _ => modesOf_isSome .inx .imp (.head _)) rfl

theorem iny : Statement (.iny) :=
  of_isSome (fun _ => modesOf_isSome .iny .imp (.head _)) rfl

theorem dex : Statement (.dex) :=
  of_isSome (fun _ => modesOf_isSome .dex .imp (.head _)) rfl

theorem dey : Statement (.dey) :=
  of_isSome (fun _ => modesOf_isSome .dey .imp (.head _)) rfl

theorem lda (m : Mode) : Statement (.lda m) :=
  of_isSome (isSome_of_contains (n := .lda)) rfl

theorem ldx (m : Mode) : Statement (.ldx m) :=
  of_isSome (isSome_of_contains (n := .ldx)) rfl

theorem ldy (m : Mode) : Statement (.ldy m) :=
  of_isSome (isSome_of_contains (n := .ldy)) rfl

theorem sta (m : Mode) : Statement (.sta m) :=
  of_isSome (isSome_of_contains (n := .sta)) rfl

theorem stx (m : Mode) : Statement (.stx m) :=
  of_isSome (isSome_of_contains (n := .stx)) rfl

theorem sty (m : Mode) : Statement (.sty m) :=
  of_isSome (isSome_of_contains (n := .sty)) rfl

theorem tax : Statement (.tax) :=
  of_isSome (fun _ => modesOf_isSome .tax .imp (.head _)) rfl

theorem tay : Statement (.tay) :=
  of_isSome (fun _ => modesOf_isSome .tay .imp (.head _)) rfl

theorem txa : Statement (.txa) :=
  of_isSome (fun _ => modesOf_isSome .txa .imp (.head _)) rfl

theorem tya : Statement (.tya) :=
  of_isSome (fun _ => modesOf_isSome .tya .imp (.head _)) rfl

theorem tsx : Statement (.tsx) :=
  of_isSome (fun _ => modesOf_isSome .tsx .imp (.head _)) rfl

theorem txs : Statement (.txs) :=
  of_isSome (fun _ => modesOf_isSome .txs .imp (.head _)) rfl

theorem php : Statement (.php) :=
  of_isSome (fun _ => modesOf_isSome .php .imp (.head _)) rfl

theorem plp : Statement (.plp) :=
  of_isSome (fun _ => modesOf_isSome .plp .imp (.head _)) rfl

theorem pha : Statement (.pha) :=
  of_isSome (fun _ => modesOf_isSome .pha .imp (.head _)) rfl

theorem pla : Statement (.pla) :=
  of_isSome (fun _ => modesOf_isSome .pla .imp (.head _)) rfl

theorem jmp (m : Mode) : Statement (.jmp m) :=
  of_isSome (isSome_of_contains (n := .jmp)) rfl

theorem bpl (disp : Byte) : Statement (.bpl disp) :=
  of_isSome (fun _ => modesOf_isSome .bpl .rel (.head _)) rfl

theorem bmi (disp : Byte) : Statement (.bmi disp) :=
  of_isSome (fun _ => modesOf_isSome .bmi .rel (.head _)) rfl

theorem bvc (disp : Byte) : Statement (.bvc disp) :=
  of_isSome (fun _ => modesOf_isSome .bvc .rel (.head _)) rfl

theorem bvs (disp : Byte) : Statement (.bvs disp) :=
  of_isSome (fun _ => modesOf_isSome .bvs .rel (.head _)) rfl

theorem bcc (disp : Byte) : Statement (.bcc disp) :=
  of_isSome (fun _ => modesOf_isSome .bcc .rel (.head _)) rfl

theorem bcs (disp : Byte) : Statement (.bcs disp) :=
  of_isSome (fun _ => modesOf_isSome .bcs .rel (.head _)) rfl

theorem bne (disp : Byte) : Statement (.bne disp) :=
  of_isSome (fun _ => modesOf_isSome .bne .rel (.head _)) rfl

theorem beq (disp : Byte) : Statement (.beq disp) :=
  of_isSome (fun _ => modesOf_isSome .beq .rel (.head _)) rfl

theorem jsr (addr : Word) : Statement (.jsr addr) :=
  of_isSome (fun _ => modesOf_isSome .jsr .abs (.head _)) rfl

theorem rts : Statement (.rts) :=
  of_isSome (fun _ => modesOf_isSome .rts .imp (.head _)) rfl

theorem clc : Statement (.clc) :=
  of_isSome (fun _ => modesOf_isSome .clc .imp (.head _)) rfl

theorem sec : Statement (.sec) :=
  of_isSome (fun _ => modesOf_isSome .sec .imp (.head _)) rfl

theorem cli : Statement (.cli) :=
  of_isSome (fun _ => modesOf_isSome .cli .imp (.head _)) rfl

theorem sei : Statement (.sei) :=
  of_isSome (fun _ => modesOf_isSome .sei .imp (.head _)) rfl

theorem cld : Statement (.cld) :=
  of_isSome (fun _ => modesOf_isSome .cld .imp (.head _)) rfl

theorem sed : Statement (.sed) :=
  of_isSome (fun _ => modesOf_isSome .sed .imp (.head _)) rfl

theorem clv : Statement (.clv) :=
  of_isSome (fun _ => modesOf_isSome .clv .imp (.head _)) rfl

theorem brk : Statement (.brk) :=
  of_isSome (fun _ => modesOf_isSome .brk .imp (.head _)) rfl

theorem rti : Statement (.rti) :=
  of_isSome (fun _ => modesOf_isSome .rti .imp (.head _)) rfl

theorem nop : Statement (.nop) :=
  of_isSome (fun _ => modesOf_isSome .nop .imp (.head _)) rfl

theorem unofficial (op : Byte) : Statement (.unofficial op) := by
  intro h
  have hop : unofficialOpcodes.contains op = true := h
  refine ⟨op, by simp only [encode, hop, if_true]; rfl, ?_⟩
  revert hop
  revert op
  decide +kernel

end Sys2Proof.Laws.Encoding
end

