-- ==== Sys2Proof/Tests/Slice0.lean ====
section
/-! SUPPORT. The model's own tests: the WellFormed smoke test, words written out from the opcode map of
30_encoding.md R118, single steps of 95_test_vectors.md, and for each statement with premises a state that
meets them. Every expected value is the spec's. -/

set_option Elab.async false

namespace Sys2Proof.Tests

open Sys2Proof.Machine

/-! ## The test machine (95_test_vectors.md section 1) -/

/-- A mapper-0 cartridge of one program bank and graphics RAM that holds `bytes` from 0x8000, the reset
vector 0x8000 and the IRQ/BRK vector 0x9000. -/
def cartOf (bytes : List Byte) : Cartridge where
  prg := Memory.ofBytes 0 bytes ++ [(0x3FFD, 0x80), (0x3FFF, 0x90)]
  chr := []
  prgBanks := 1
  chrBanks := 0
  mapperId := 0
  mirror := .horizontal
  mapper := .mapper0 1 0

/-- The machine after reset with `bytes` at 0x8000, at its next instruction boundary. -/
def machine (bytes : List Byte) : State :=
  { State.reset with cart := some (cartOf bytes), pc := 0x8000, cycles := 0 }

/-- The machine with bytes stored over the Bus. -/
def poke (s : State) (l : List (Word × Byte)) : State := l.foldl (fun t c => busWrite t c.1 c.2) s

/-- The Address register's pair of writes. -/
def point (s : State) (w : Word) : State := poke s [(0x2006, hiByte w), (0x2006, loByte w)]

/-- The result columns of the vectors. -/
structure Regs where
  a : Byte
  x : Byte
  y : Byte
  sp : Byte
  p : Byte
  pc : Word
  cost : Nat
  deriving DecidableEq, Repr

/-- `A`, `X`, `Y`, `SP`, `P`, `PC` after a step from a boundary, and its cost: the vectors' columns. -/
def regs : Result → Option Regs
  | .next t => some ⟨t.a, t.x, t.y, t.sp, t.p, t.pc, t.cycles + 1⟩
  | .fault _ | .refused _ => none

/-- Work-RAM bytes after a step. -/
def wramAfter (l : List Nat) : Result → Option (List Byte)
  | .next t => some (l.map t.wram.read)
  | .fault _ | .refused _ => none

/-- Whether a result is a next state of which `p` holds. -/
def nextWith (p : State → Bool) : Result → Bool
  | .next t => p t
  | .fault _ | .refused _ => false

theorem exists_nextWith {p : State → Bool} {r : Result} (h : nextWith p r = true) :
    ∃ t, r = .next t ∧ p t = true := by
  cases r with
  | next t => exact ⟨t, rfl, h⟩
  | fault e => cases h
  | refused e => cases h

/-- What the decoder answers, as an option. -/
def decoded (bs : List Byte) : Option (Instr × List Byte) :=
  match decode bs with
  | .ok r => some r
  | .error _ => none

/-! ## WellFormed: one ill-formed term for each check -/

theorem test_wf_refuses_modes : [Instr.adc .imp, .sbc (.zpy 0), .and (.ind 0), .ora (.rel 0), .eor .imp,
    .cmp (.zpy 0), .lda (.ind 0)].all (fun i => !i.wf) = true := by decide

theorem test_wf_refuses_bit_and_shift_modes : [Instr.bit (.imm 0), .asl (.imm 0), .lsr (.aby 0),
    .rol (.izx 0), .ror (.zpy 0)].all (fun i => !i.wf) = true := by decide

theorem test_wf_refuses_index_modes : [Instr.cpx (.abx 0), .cpy (.zpx 0), .inc .imp, .dec (.imm 0),
    .ldx (.zpx 0), .ldy (.zpy 0)].all (fun i => !i.wf) = true := by decide

theorem test_wf_refuses_store_and_jump_modes : [Instr.sta (.imm 0), .stx (.zpx 0), .sty (.zpy 0),
    .jmp (.abx 0)].all (fun i => !i.wf) = true := by decide

theorem test_wf_refuses_official_placeholder : (Instr.unofficial 0xEA).wf = false := by decide

/-! ## Decoding words written out from the map of R118 and the operand forms of R100, R122 -/

theorem test_decode_arith_logic : [
    ([0x69, 0x80, 0x5A], Instr.adc (.imm 0x80)),
    ([0xE5, 0x10, 0x5A], .sbc (.zp0 0x10)),
    ([0x3D, 0x34, 0x12, 0x5A], .and (.abx 0x1234)),
    ([0x01, 0xFE, 0x5A], .ora (.izx 0xFE)),
    ([0x51, 0x10, 0x5A], .eor (.izy 0x10)),
    ([0x2C, 0x10, 0x00, 0x5A], .bit (.abs 0x0010))].all
    (fun c : List Byte × Instr => decoded c.1 == some (c.2, [0x5A])) = true := by decide +kernel

theorem test_decode_shifts : [
    ([0x0A, 0x5A], Instr.asl .imp),
    ([0x46, 0x10, 0x5A], .lsr (.zp0 0x10)),
    ([0x36, 0xF0, 0x5A], .rol (.zpx 0xF0)),
    ([0x7E, 0xFF, 0x02, 0x5A], .ror (.abx 0x02FF))].all
    (fun c : List Byte × Instr => decoded c.1 == some (c.2, [0x5A])) = true := by decide +kernel

theorem test_decode_compares_steps : [
    ([0xD9, 0xFF, 0x00, 0x5A], Instr.cmp (.aby 0x00FF)),
    ([0xE0, 0x06, 0x5A], .cpx (.imm 0x06)),
    ([0xC4, 0x10, 0x5A], .cpy (.zp0 0x10)),
    ([0xEE, 0x07, 0x20, 0x5A], .inc (.abs 0x2007)),
    ([0xD6, 0x0F, 0x5A], .dec (.zpx 0x0F)),
    ([0xE8, 0x5A], .inx),
    ([0xC8, 0x5A], .iny),
    ([0xCA, 0x5A], .dex),
    ([0x88, 0x5A], .dey)].all
    (fun c : List Byte × Instr => decoded c.1 == some (c.2, [0x5A])) = true := by decide +kernel

theorem test_decode_loads_stores : [
    ([0xA9, 0x05, 0x5A], Instr.lda (.imm 0x05)),
    ([0xB6, 0xFF, 0x5A], .ldx (.zpy 0xFF)),
    ([0xBC, 0x00, 0x02, 0x5A], .ldy (.abx 0x0200)),
    ([0x85, 0x10, 0x5A], .sta (.zp0 0x10)),
    ([0x96, 0x10, 0x5A], .stx (.zpy 0x10)),
    ([0x94, 0xFF, 0x5A], .sty (.zpx 0xFF))].all
    (fun c : List Byte × Instr => decoded c.1 == some (c.2, [0x5A])) = true := by decide +kernel

theorem test_decode_transfers_stack : [
    ([0xAA, 0x5A], Instr.tax),
    ([0xA8, 0x5A], .tay),
    ([0x8A, 0x5A], .txa),
    ([0x98, 0x5A], .tya),
    ([0xBA, 0x5A], .tsx),
    ([0x9A, 0x5A], .txs),
    ([0x08, 0x5A], .php),
    ([0x28, 0x5A], .plp),
    ([0x48, 0x5A], .pha),
    ([0x68, 0x5A], .pla)].all
    (fun c : List Byte × Instr => decoded c.1 == some (c.2, [0x5A])) = true := by decide +kernel

theorem test_decode_control : [
    ([0x6C, 0xFF, 0x02, 0x5A], Instr.jmp (.ind 0x02FF)),
    ([0x10, 0x10, 0x5A], .bpl 0x10),
    ([0x30, 0xFC, 0x5A], .bmi 0xFC),
    ([0x50, 0x02, 0x5A], .bvc 0x02),
    ([0x70, 0x02, 0x5A], .bvs 0x02),
    ([0x90, 0x7F, 0x5A], .bcc 0x7F),
    ([0xB0, 0x80, 0x5A], .bcs 0x80),
    ([0xD0, 0xFD, 0x5A], .bne 0xFD),
    ([0xF0, 0xFE, 0x5A], .beq 0xFE),
    ([0x20, 0x00, 0x90, 0x5A], .jsr 0x9000),
    ([0x60, 0x5A], .rts)].all
    (fun c : List Byte × Instr => decoded c.1 == some (c.2, [0x5A])) = true := by decide +kernel

theorem test_decode_system : [
    ([0x18, 0x5A], Instr.clc),
    ([0x38, 0x5A], .sec),
    ([0x58, 0x5A], .cli),
    ([0x78, 0x5A], .sei),
    ([0xD8, 0x5A], .cld),
    ([0xF8, 0x5A], .sed),
    ([0xB8, 0x5A], .clv),
    ([0x00, 0x5A], .brk),
    ([0x40, 0x5A], .rti),
    ([0xEA, 0x5A], .nop),
    ([0xFF, 0x5A], .unofficial 0xFF)].all
    (fun c : List Byte × Instr => decoded c.1 == some (c.2, [0x5A])) = true := by decide +kernel

/-- Only missing bytes are refused, by name (R120). -/
theorem test_decode_refuses_missing_bytes : decode [] = .error .noOpcode ∧
    decode [0x4C, 0x00] = .error (.missingOperand 0x4C) := ⟨rfl, rfl⟩

/-- The harness: a table word is decoded, and runs as the first instruction after reset. -/
theorem test_table_word_runs : decodeTableWord 24 0x1234AD = some (.lda (.abs 0x1234)) ∧
    regs (step (State.reset.withFetchWord 16 0x05A9)) = some ⟨0x05, 0, 0, 0xFD, 0x20, 0x0002, 2⟩ := by
  decide +kernel

/-! ## One step each (95_test_vectors.md sections 2 to 4; the vector's name stands in the theorem's) -/

/-- T3: ADC, carry-out and zero. -/
theorem test_adc_T3 :
    regs (step ({ machine [0x69, 0x01] with a := 0xFF })) =
      some ⟨0x00, 0x00, 0x00, 0xFD, 0x23, 0x8002, 2⟩ := by
  decide +kernel

/-- T4: ADC, overflow pos+pos. -/
theorem test_adc_T4 :
    regs (step ({ machine [0x69, 0x50] with a := 0x50 })) =
      some ⟨0xA0, 0x00, 0x00, 0xFD, 0xE0, 0x8002, 2⟩ := by
  decide +kernel

/-- T13: SBC, V=1 where the addition formula on m gives 0 (C7 regression). -/
theorem test_sbc_T13 :
    regs (step ({ machine [0xE9, 0xB0] with a := 0x50, p := 0x21 })) =
      some ⟨0xA0, 0x00, 0x00, 0xFD, 0xE0, 0x8002, 2⟩ := by
  decide +kernel

/-- T22: AND (zp),Y with page cross: +1. -/
theorem test_and_T22 :
    regs (step (poke { machine [0x31, 0x10] with a := 0xFF, y := 0x01 } [(0x0010, 0xFF), (0x0011, 0x01), (0x0200, 0x5A)])) =
      some ⟨0x5A, 0x00, 0x01, 0xFD, 0x20, 0x8002, 6⟩ := by
  decide +kernel

/-- T23: ORA (zp,X), pointer wraps in the zero page. -/
theorem test_ora_T23 :
    regs (step (poke { machine [0x01, 0xFE] with a := 0x00, x := 0x01 } [(0x00FF, 0x34), (0x0000, 0x02), (0x0234, 0x81)])) =
      some ⟨0x81, 0x01, 0x00, 0xFD, 0xA0, 0x8002, 6⟩ := by
  decide +kernel

/-- T24: EOR zp,X wraps in the zero page. -/
theorem test_eor_T24 :
    regs (step (poke { machine [0x55, 0xF0] with a := 0x0F, x := 0x20 } [(0x0010, 0xFF)])) =
      some ⟨0xF0, 0x20, 0x00, 0xFD, 0xA0, 0x8002, 4⟩ := by
  decide +kernel

/-- T18: BIT zp: Z from A&m, N and V from m. -/
theorem test_bit_T18 :
    regs (step (poke { machine [0x24, 0x10] with a := 0x3F } [(0x0010, 0xC0)])) =
      some ⟨0x3F, 0x00, 0x00, 0xFD, 0xE2, 0x8002, 3⟩ := by
  decide +kernel

/-- T19: BIT abs: clears N, V; Z=0. -/
theorem test_bit_T19 :
    regs (step (poke { machine [0x2C, 0x10, 0x00] with a := 0x01, p := 0xE0 } [(0x0010, 0x01)])) =
      some ⟨0x01, 0x00, 0x00, 0xFD, 0x20, 0x8003, 4⟩ := by
  decide +kernel

/-- T30: ASL A: bit 7 to C, zero result. -/
theorem test_asl_T30 :
    regs (step ({ machine [0x0A] with a := 0x80 })) =
      some ⟨0x00, 0x00, 0x00, 0xFD, 0x23, 0x8001, 2⟩ := by
  decide +kernel

/-- T31: ASL zp writes memory, A untouched. -/
theorem test_asl_T31 :
    regs (step (poke { machine [0x06, 0x10] with a := 0x11 } [(0x0010, 0x41)])) =
      some ⟨0x11, 0x00, 0x00, 0xFD, 0xA0, 0x8002, 5⟩ ∧
    wramAfter [0x0010] (step (poke { machine [0x06, 0x10] with a := 0x11 } [(0x0010, 0x41)])) = some [0x82] := by
  decide +kernel

/-- T33: LSR never sets N. -/
theorem test_lsr_T33 :
    regs (step ({ machine [0x4A] with a := 0xFF, p := 0xA0 })) =
      some ⟨0x7F, 0x00, 0x00, 0xFD, 0x21, 0x8001, 2⟩ := by
  decide +kernel

/-- T34: ROL A: old C into bit 0. -/
theorem test_rol_T34 :
    regs (step ({ machine [0x2A] with a := 0x80, p := 0x21 })) =
      some ⟨0x01, 0x00, 0x00, 0xFD, 0x21, 0x8001, 2⟩ := by
  decide +kernel

/-- T35: ROR A: old C into bit 7. -/
theorem test_ror_T35 :
    regs (step ({ machine [0x6A] with a := 0x01, p := 0x21 })) =
      some ⟨0x80, 0x00, 0x00, 0xFD, 0xA1, 0x8001, 2⟩ := by
  decide +kernel

/-- T36: ROR abs,X with page cross: no extra cycle. -/
theorem test_ror_T36 :
    regs (step (poke { machine [0x7E, 0xFF, 0x02] with x := 0x01, p := 0x20 } [(0x0300, 0x02)])) =
      some ⟨0x00, 0x01, 0x00, 0xFD, 0x20, 0x8003, 7⟩ ∧
    wramAfter [0x0300] (step (poke { machine [0x7E, 0xFF, 0x02] with x := 0x01, p := 0x20 } [(0x0300, 0x02)])) = some [0x01] := by
  decide +kernel

/-- T38: CMP less: C=0, N from difference. -/
theorem test_cmp_T38 :
    regs (step ({ machine [0xC9, 0x01] with a := 0x00 })) =
      some ⟨0x00, 0x00, 0x00, 0xFD, 0xA0, 0x8002, 2⟩ := by
  decide +kernel

/-- T40: CMP abs,Y with page cross: +1. -/
theorem test_cmp_T40 :
    regs (step (poke { machine [0xD9, 0xFF, 0x00] with a := 0x10, y := 0x01 } [(0x0100, 0x10)])) =
      some ⟨0x10, 0x00, 0x01, 0xFD, 0x23, 0x8003, 5⟩ := by
  decide +kernel

/-- T41: CPX imm. -/
theorem test_cpx_T41 :
    regs (step ({ machine [0xE0, 0x06] with x := 0x05 })) =
      some ⟨0x00, 0x05, 0x00, 0xFD, 0xA0, 0x8002, 2⟩ := by
  decide +kernel

/-- T42: CPY zp. -/
theorem test_cpy_T42 :
    regs (step (poke { machine [0xC4, 0x10] with y := 0x80 } [(0x0010, 0x00)])) =
      some ⟨0x00, 0x00, 0x80, 0xFD, 0xA1, 0x8002, 3⟩ := by
  decide +kernel

/-- T44: INC abs,X with page cross: no extra cycle. -/
theorem test_inc_T44 :
    regs (step (poke { machine [0xFE, 0xFF, 0x01] with x := 0x01 } [(0x0200, 0xFF)])) =
      some ⟨0x00, 0x01, 0x00, 0xFD, 0x22, 0x8003, 7⟩ ∧
    wramAfter [0x0200] (step (poke { machine [0xFE, 0xFF, 0x01] with x := 0x01 } [(0x0200, 0xFF)])) = some [0x00] := by
  decide +kernel

/-- T45: DEC zp,X to zero. -/
theorem test_dec_T45 :
    regs (step (poke { machine [0xD6, 0x0F] with x := 0x01 } [(0x0010, 0x01)])) =
      some ⟨0x00, 0x01, 0x00, 0xFD, 0x22, 0x8002, 6⟩ ∧
    wramAfter [0x0010] (step (poke { machine [0xD6, 0x0F] with x := 0x01 } [(0x0010, 0x01)])) = some [0x00] := by
  decide +kernel

/-- T46: INX wraps 0xFF to 0x00. -/
theorem test_inx_T46 :
    regs (step ({ machine [0xE8] with x := 0xFF })) =
      some ⟨0x00, 0x00, 0x00, 0xFD, 0x22, 0x8001, 2⟩ := by
  decide +kernel

/-- T47: INY. -/
theorem test_iny_T47 :
    regs (step ({ machine [0xC8] with y := 0x7F })) =
      some ⟨0x00, 0x00, 0x80, 0xFD, 0xA0, 0x8001, 2⟩ := by
  decide +kernel

/-- T48: DEX. -/
theorem test_dex_T48 :
    regs (step ({ machine [0xCA] with x := 0x00 })) =
      some ⟨0x00, 0xFF, 0x00, 0xFD, 0xA0, 0x8001, 2⟩ := by
  decide +kernel

/-- T49: DEY to zero. -/
theorem test_dey_T49 :
    regs (step ({ machine [0x88] with y := 0x01 })) =
      some ⟨0x00, 0x00, 0x00, 0xFD, 0x22, 0x8001, 2⟩ := by
  decide +kernel

/-- T51: LDA abs,Y with page cross: +1. -/
theorem test_lda_T51 :
    regs (step (poke { machine [0xB9, 0xF0, 0x00] with y := 0x20 } [(0x0110, 0x00)])) =
      some ⟨0x00, 0x00, 0x20, 0xFD, 0x22, 0x8003, 5⟩ := by
  decide +kernel

/-- T52: LDA (zp),Y without page cross. -/
theorem test_lda_T52 :
    regs (step (poke { machine [0xB1, 0x10] with y := 0x02 } [(0x0010, 0x00), (0x0011, 0x03), (0x0302, 0x33)])) =
      some ⟨0x33, 0x00, 0x02, 0xFD, 0x20, 0x8002, 5⟩ := by
  decide +kernel

/-- T54: LDX zp,Y wraps in the zero page. -/
theorem test_ldx_T54 :
    regs (step (poke { machine [0xB6, 0xFF] with y := 0x11 } [(0x0010, 0xFE)])) =
      some ⟨0x00, 0xFE, 0x11, 0xFD, 0xA0, 0x8002, 4⟩ := by
  decide +kernel

/-- T55: LDX abs,Y with page cross: +1. -/
theorem test_ldx_T55 :
    regs (step (poke { machine [0xBE, 0xFF, 0x01] with y := 0x01 } [(0x0200, 0x01)])) =
      some ⟨0x00, 0x01, 0x01, 0xFD, 0x20, 0x8003, 5⟩ := by
  decide +kernel

/-- T57: LDY abs,X with page cross: +1. -/
theorem test_ldy_T57 :
    regs (step (poke { machine [0xBC, 0xFF, 0x02] with x := 0x05 } [(0x0304, 0x09)])) =
      some ⟨0x00, 0x05, 0x09, 0xFD, 0x20, 0x8003, 5⟩ := by
  decide +kernel

/-- T60: STA abs,X with page cross: no extra cycle. -/
theorem test_sta_T60 :
    regs (step ({ machine [0x9D, 0xFF, 0x02] with a := 0x99, x := 0x01 })) =
      some ⟨0x99, 0x01, 0x00, 0xFD, 0x20, 0x8003, 5⟩ ∧
    wramAfter [0x0300] (step ({ machine [0x9D, 0xFF, 0x02] with a := 0x99, x := 0x01 })) = some [0x99] := by
  decide +kernel

/-- T62: STA to 0x1FFF lands at WRAM 0x07FF. -/
theorem test_sta_T62 :
    regs (step ({ machine [0x8D, 0xFF, 0x1F] with a := 0xA5 })) =
      some ⟨0xA5, 0x00, 0x00, 0xFD, 0x20, 0x8003, 4⟩ ∧
    wramAfter [0x07FF] (step ({ machine [0x8D, 0xFF, 0x1F] with a := 0xA5 })) = some [0xA5] := by
  decide +kernel

/-- T64: STX zp,Y. -/
theorem test_stx_T64 :
    regs (step ({ machine [0x96, 0x10] with x := 0x7F, y := 0x01 })) =
      some ⟨0x00, 0x7F, 0x01, 0xFD, 0x20, 0x8002, 4⟩ ∧
    wramAfter [0x0011] (step ({ machine [0x96, 0x10] with x := 0x7F, y := 0x01 })) = some [0x7F] := by
  decide +kernel

/-- T65: STY zp,X wraps. -/
theorem test_sty_T65 :
    regs (step ({ machine [0x94, 0xFF] with y := 0x3F, x := 0x02 })) =
      some ⟨0x00, 0x02, 0x3F, 0xFD, 0x20, 0x8002, 4⟩ ∧
    wramAfter [0x0001] (step ({ machine [0x94, 0xFF] with y := 0x3F, x := 0x02 })) = some [0x3F] := by
  decide +kernel

/-- T66: TAX zero. -/
theorem test_tax_T66 :
    regs (step ({ machine [0xAA] with a := 0x00, x := 0x55 })) =
      some ⟨0x00, 0x00, 0x00, 0xFD, 0x22, 0x8001, 2⟩ := by
  decide +kernel

/-- T67: TAY negative. -/
theorem test_tay_T67 :
    regs (step ({ machine [0xA8] with a := 0x80 })) =
      some ⟨0x80, 0x00, 0x80, 0xFD, 0xA0, 0x8001, 2⟩ := by
  decide +kernel

/-- T68: TXA. -/
theorem test_txa_T68 :
    regs (step ({ machine [0x8A] with x := 0x01, a := 0xFF })) =
      some ⟨0x01, 0x01, 0x00, 0xFD, 0x20, 0x8001, 2⟩ := by
  decide +kernel

/-- T69: TYA. -/
theorem test_tya_T69 :
    regs (step ({ machine [0x98] with y := 0xFF })) =
      some ⟨0xFF, 0x00, 0xFF, 0xFD, 0xA0, 0x8001, 2⟩ := by
  decide +kernel

/-- T70: TSX sets Z and N. -/
theorem test_tsx_T70 :
    regs (step ({ machine [0xBA] with sp := 0x00 })) =
      some ⟨0x00, 0x00, 0x00, 0x00, 0x22, 0x8001, 2⟩ := by
  decide +kernel

/-- T71: TXS writes no flag. -/
theorem test_txs_T71 :
    regs (step ({ machine [0x9A] with x := 0x00, p := 0xA0 })) =
      some ⟨0x00, 0x00, 0x00, 0x00, 0xA0, 0x8001, 2⟩ := by
  decide +kernel

/-- T80: PHP pushes B=1 and U=1, live P unchanged. -/
theorem test_php_T80 :
    regs (step ({ machine [0x08] with p := 0xEF })) =
      some ⟨0x00, 0x00, 0x00, 0xFC, 0xEF, 0x8001, 3⟩ ∧
    wramAfter [0x01FD] (step ({ machine [0x08] with p := 0xEF })) = some [0xFF] := by
  decide +kernel

/-- T81: PLP of 0xFF: B forced 0. -/
theorem test_plp_T81 :
    regs (step (poke { machine [0x28] with sp := 0xFC } [(0x01FD, 0xFF)])) =
      some ⟨0x00, 0x00, 0x00, 0xFD, 0xEF, 0x8001, 4⟩ := by
  decide +kernel

/-- T82: PLP of 0x00: U forced 1. -/
theorem test_plp_T82 :
    regs (step (poke { machine [0x28] with sp := 0xFC, p := 0xEF } [(0x01FD, 0x00)])) =
      some ⟨0x00, 0x00, 0x00, 0xFD, 0x20, 0x8001, 4⟩ := by
  decide +kernel

/-- T83: PHA at SP=0x00 writes 0x0100, SP wraps. -/
theorem test_pha_T83 :
    regs (step ({ machine [0x48] with a := 0x42, sp := 0x00 })) =
      some ⟨0x42, 0x00, 0x00, 0xFF, 0x20, 0x8001, 3⟩ ∧
    wramAfter [0x0100] (step ({ machine [0x48] with a := 0x42, sp := 0x00 })) = some [0x42] := by
  decide +kernel

/-- T84: PLA at SP=0xFF reads 0x0100. -/
theorem test_pla_T84 :
    regs (step (poke { machine [0x68] with sp := 0xFF } [(0x0100, 0x00)])) =
      some ⟨0x00, 0x00, 0x00, 0x00, 0x22, 0x8001, 4⟩ := by
  decide +kernel

/-- T91: JMP (ind), normal pointer. -/
theorem test_jmp_T91 :
    regs (step (poke (machine [0x6C, 0x00, 0x02]) [(0x0200, 0x78), (0x0201, 0x56)])) =
      some ⟨0x00, 0x00, 0x00, 0xFD, 0x20, 0x5678, 5⟩ := by
  decide +kernel

/-- T92: JMP (ind), pointer low byte 0xFF: page-wrap bug. -/
theorem test_jmp_T92 :
    regs (step (poke (machine [0x6C, 0xFF, 0x02]) [(0x02FF, 0x34), (0x0200, 0x12), (0x0300, 0x56)])) =
      some ⟨0x00, 0x00, 0x00, 0xFD, 0x20, 0x1234, 5⟩ := by
  decide +kernel

/-- T93: BPL not taken. -/
theorem test_bpl_T93 :
    regs (step ({ machine [0x10, 0x10] with p := 0xA0 })) =
      some ⟨0x00, 0x00, 0x00, 0xFD, 0xA0, 0x8002, 2⟩ := by
  decide +kernel

/-- T94: BPL taken, same page. -/
theorem test_bpl_T94 :
    regs (step ({ machine [0x10, 0x10] with p := 0x20 })) =
      some ⟨0x00, 0x00, 0x00, 0xFD, 0x20, 0x8012, 3⟩ := by
  decide +kernel

/-- T95: BMI taken, negative displacement crosses page (C7 regression). -/
theorem test_bmi_T95 :
    regs (step ({ machine [0x30, 0xFC] with p := 0xA0 })) =
      some ⟨0x00, 0x00, 0x00, 0xFD, 0xA0, 0x7FFE, 4⟩ := by
  decide +kernel

/-- T96: BVC taken. -/
theorem test_bvc_T96 :
    regs (step ({ machine [0x50, 0x02] with p := 0x20 })) =
      some ⟨0x00, 0x00, 0x00, 0xFD, 0x20, 0x8004, 3⟩ := by
  decide +kernel

/-- T97: BVS not taken. -/
theorem test_bvs_T97 :
    regs (step ({ machine [0x70, 0x02] with p := 0x20 })) =
      some ⟨0x00, 0x00, 0x00, 0xFD, 0x20, 0x8002, 2⟩ := by
  decide +kernel

/-- T98: BCC taken, displacement 0x7F. -/
theorem test_bcc_T98 :
    regs (step ({ machine [0x90, 0x7F] with p := 0x20 })) =
      some ⟨0x00, 0x00, 0x00, 0xFD, 0x20, 0x8081, 3⟩ := by
  decide +kernel

/-- T99: BCS taken, displacement 0x80 = -128 (C7 regression). -/
theorem test_bcs_T99 :
    regs (step ({ machine [0xB0, 0x80] with p := 0x21 })) =
      some ⟨0x00, 0x00, 0x00, 0xFD, 0x21, 0x7F82, 4⟩ := by
  decide +kernel

/-- T100: BNE not taken when Z=1, every other flag set (C7 regression). -/
theorem test_bne_T100 :
    regs (step ({ machine [0xD0, 0x10] with p := 0xEF })) =
      some ⟨0x00, 0x00, 0x00, 0xFD, 0xEF, 0x8002, 2⟩ := by
  decide +kernel

/-- T102: BNE taken when every flag set but Z (C7 regression). -/
theorem test_bne_T102 :
    regs (step ({ machine [0xD0, 0x10] with p := 0xED })) =
      some ⟨0x00, 0x00, 0x00, 0xFD, 0xED, 0x8012, 3⟩ := by
  decide +kernel

/-- T101: BEQ taken when Z=1, every other flag set (C7 regression). -/
theorem test_beq_T101 :
    regs (step ({ machine [0xF0, 0x10] with p := 0xEF })) =
      some ⟨0x00, 0x00, 0x00, 0xFD, 0xEF, 0x8012, 3⟩ := by
  decide +kernel

/-- T103: BEQ 0xFE loops on itself. -/
theorem test_beq_T103 :
    regs (step ({ machine [0xF0, 0xFE] with p := 0x22 })) =
      some ⟨0x00, 0x00, 0x00, 0xFD, 0x22, 0x8000, 3⟩ := by
  decide +kernel

/-- T104: JSR. -/
theorem test_jsr_T104 :
    regs (step (machine [0x20, 0x00, 0x90])) =
      some ⟨0x00, 0x00, 0x00, 0xFB, 0x20, 0x9000, 6⟩ ∧
    wramAfter [0x01FD, 0x01FC] (step (machine [0x20, 0x00, 0x90])) = some [0x80, 0x02] := by
  decide +kernel

/-- T105: RTS. -/
theorem test_rts_T105 :
    regs (step (poke { machine [0x60] with sp := 0xFB } [(0x01FC, 0x02), (0x01FD, 0x80)])) =
      some ⟨0x00, 0x00, 0x00, 0xFD, 0x20, 0x8003, 6⟩ := by
  decide +kernel

/-- T106: RTS of stacked 0xFFFF returns to 0x0000. -/
theorem test_rts_T106 :
    regs (step (poke { machine [0x60] with sp := 0xFB } [(0x01FC, 0xFF), (0x01FD, 0xFF)])) =
      some ⟨0x00, 0x00, 0x00, 0xFD, 0x20, 0x0000, 6⟩ := by
  decide +kernel

/-- T110: CLC. -/
theorem test_clc_T110 :
    regs (step ({ machine [0x18] with p := 0xEF })) =
      some ⟨0x00, 0x00, 0x00, 0xFD, 0xEE, 0x8001, 2⟩ := by
  decide +kernel

/-- T111: SEC. -/
theorem test_sec_T111 :
    regs (step (machine [0x38])) =
      some ⟨0x00, 0x00, 0x00, 0xFD, 0x21, 0x8001, 2⟩ := by
  decide +kernel

/-- T112: CLI. -/
theorem test_cli_T112 :
    regs (step ({ machine [0x58] with p := 0x24 })) =
      some ⟨0x00, 0x00, 0x00, 0xFD, 0x20, 0x8001, 2⟩ := by
  decide +kernel

/-- T113: SEI. -/
theorem test_sei_T113 :
    regs (step (machine [0x78])) =
      some ⟨0x00, 0x00, 0x00, 0xFD, 0x24, 0x8001, 2⟩ := by
  decide +kernel

/-- T114: CLD. -/
theorem test_cld_T114 :
    regs (step ({ machine [0xD8] with p := 0x28 })) =
      some ⟨0x00, 0x00, 0x00, 0xFD, 0x20, 0x8001, 2⟩ := by
  decide +kernel

/-- T115: SED. -/
theorem test_sed_T115 :
    regs (step (machine [0xF8])) =
      some ⟨0x00, 0x00, 0x00, 0xFD, 0x28, 0x8001, 2⟩ := by
  decide +kernel

/-- T116: CLV. -/
theorem test_clv_T116 :
    regs (step ({ machine [0xB8] with p := 0x60 })) =
      some ⟨0x00, 0x00, 0x00, 0xFD, 0x20, 0x8001, 2⟩ := by
  decide +kernel

/-- T117: BRK, vector 0x9000. -/
theorem test_brk_T117 :
    regs (step ({ machine [0x00, 0xEA] with p := 0x20 })) =
      some ⟨0x00, 0x00, 0x00, 0xFA, 0x24, 0x9000, 7⟩ ∧
    wramAfter [0x01FD, 0x01FC, 0x01FB] (step ({ machine [0x00, 0xEA] with p := 0x20 })) = some [0x80, 0x02, 0x30] := by
  decide +kernel

/-- T118: BRK with I already 1, stacked byte keeps the old I. -/
theorem test_brk_T118 :
    regs (step ({ machine [0x00] with p := 0xC5 })) =
      some ⟨0x00, 0x00, 0x00, 0xFA, 0xE5, 0x9000, 7⟩ ∧
    wramAfter [0x01FB] (step ({ machine [0x00] with p := 0xC5 })) = some [0xF5] := by
  decide +kernel

/-- T119: NOP. -/
theorem test_nop_T119 :
    regs (step ({ machine [0xEA] with p := 0xC3 })) =
      some ⟨0x00, 0x00, 0x00, 0xFD, 0xE3, 0x8001, 2⟩ := by
  decide +kernel

/-- T120: RTI, no +1. -/
theorem test_rti_T120 :
    regs (step (poke { machine [0x40] with sp := 0xFA } [(0x01FB, 0xFF), (0x01FC, 0x02), (0x01FD, 0x80)])) =
      some ⟨0x00, 0x00, 0x00, 0xFD, 0xEF, 0x8002, 6⟩ := by
  decide +kernel

/-- T121: unofficial 0x02: 1-byte placeholder, cost 2. -/
theorem test_unofficial_T121 :
    regs (step ({ machine [0x02] with a := 0x11, p := 0x21 })) =
      some ⟨0x11, 0x00, 0x00, 0xFD, 0x21, 0x8001, 2⟩ := by
  decide +kernel

/-- T123: unofficial 0x04 (a 2-byte NOP on silicon) is 1 byte here. -/
theorem test_unofficial_T123 :
    regs (step (machine [0x04, 0x10])) =
      some ⟨0x00, 0x00, 0x00, 0xFD, 0x20, 0x8001, 2⟩ := by
  decide +kernel

/-- V-SBC: SBC reads Data once (90_conflicts.md C7). -/
theorem test_sbc_reads_once :
    let s := poke (machine [0xED, 0x07, 0x20]) [(0x2006, 0x20), (0x2006, 0x00), (0x2007, 0x05), (0x2007, 0x09)]
    let r := step { (busRead (point s 0x2000) 0x2007).2 with a := 0x10, p := 0x21 }
    regs r = some ⟨0x0B, 0, 0, 0xFD, 0x21, 0x8003, 4⟩ ∧
      nextWith (fun t => t.vr.buffer == 0x09 && t.vr.vramAddr == 0x2002) r = true := by
  decide +kernel

/-- V17: INC of Data reads and writes once each. -/
theorem test_inc_data :
    let s := poke (point (machine [0xEE, 0x07, 0x20]) 0x2000) [(0x2007, 0x10), (0x2007, 0x20)]
    nextWith (fun t => t.vr.nametable == [(0, 0x10), (1, 0x20), (2, 0x11)] && t.vr.buffer == 0x20 &&
      t.vr.vramAddr == 0x2003) (step (busRead (point s 0x2000) 0x2007).2) = true := by
  decide +kernel

/-- I1: an IRQ is taken. -/
theorem test_irq_entry :
    let r := step { machine [0xEA] with irqLine := true }
    regs r = some ⟨0, 0, 0, 0xFA, 0x24, 0x9000, 7⟩ ∧
      wramAfter [0x01FD, 0x01FC, 0x01FB] r = some [0x80, 0x00, 0x20] := by
  decide +kernel

/-- I4: an NMI goes before an IRQ, and clears its latch only. -/
theorem test_nmi_before_irq :
    let r := step { machine [0xEA] with irqLine := true, nmiPending := true }
    regs r = some ⟨0, 0, 0, 0xFA, 0x24, 0x9000, 8⟩ ∧
      nextWith (fun t => !t.nmiPending && t.irqLine) r = true := by
  decide +kernel

/-- R243, R60: with NMI_VECTOR = 0xFFFF the high byte of the vector is at 0x0000. -/
theorem test_nmi_vector_wraps :
    let s := poke (machine [0xEA]) [(0x0000, 0x12)]
    (regs (step { s with nmiPending := true, params := { s.params with nmiVector := 0xFFFF } })).map
      (fun r => (r.pc, r.cost)) = some (0x1290, 8) := by
  decide +kernel

/-- R82, R116, R315: with PC at Data the opcode is a buffered Data read, and the operand a read of the next
register, Control, which gives 0x00. -/
theorem test_fetch_from_the_register_window :
    let s := point (machine []) 0x2000
    let r := step { s with pc := 0x2007, a := 0x77, vr := { s.vr with buffer := 0xA9 } }
    regs r = some ⟨0x00, 0, 0, 0xFD, 0x22, 0x2009, 2⟩ ∧
      nextWith (fun t => t.vr.vramAddr == 0x2001 && t.vr.buffer == 0x00) r = true := by
  decide +kernel

/-- S2: reset loads PC from the vector. -/
theorem test_reset :
    snapshot (busReset (machine [])) = { a := 0, x := 0, y := 0, sp := 0xFD, pc := 0x8000, p := 0x20 } := by
  decide +kernel

/-- V2: a Status read restarts the pair of Address writes. -/
theorem test_status_restarts_address :
    let s := (busRead (poke (machine []) [(0x2006, 0x12)]) 0x2002).2
    (point s 0x3F00).vr.vramAddr = 0x3F00 ∧ (point s 0x3F00).vr.latch = false := by
  decide +kernel

/-- V6: buffered Data reads lag by one. -/
theorem test_data_reads_lag :
    let s := point (poke (point (machine []) 0x2000) [(0x2007, 0xAB), (0x2007, 0xCD)]) 0x2000
    let r1 := busRead s 0x2007
    let r2 := busRead r1.2 0x2007
    (r1.1, r2.1, (busRead r2.2 0x2007).1) = (0x00, 0xAB, 0xCD) := by
  decide +kernel

/-- V8: 0x3F10 is an alias of 0x3F00, 0x3F11 is none. -/
theorem test_palette_aliases :
    let s := poke (point (poke (point (machine []) 0x3F10) [(0x2007, 0x15)]) 0x3F11) [(0x2007, 0x09)]
    ((busRead (point s 0x3F20) 0x2007).1, (busRead (point s 0x3F01) 0x2007).1) = (0x15, 0x00) := by
  decide +kernel

/-- V16: the address is stored with 16 bits and used with 14. -/
theorem test_video_address_masked :
    let s := poke (point (machine []) 0x3FFF) [(0x2007, 0x07), (0x2007, 0x08)]
    s.vr.palette = [(0x1F, 0x07)] ∧ s.vr.vramAddr = 0x4001 ∧ chrBytes s = [(0, 0x08)] := by
  decide +kernel

/-- V12a and V12b: nametable mirroring. -/
theorem test_nametable_mirroring :
    [(0x2000, 1), (0x2400, 2), (0x2800, 3), (0x2C00, 4)].map
        (fun c : BitVec 14 × Nat => (nametableIndex .horizontal c.1, nametableIndex .vertical c.1)) =
      [(0, 0), (0, 1024), (1024, 0), (1024, 1024)] := by
  decide +kernel

/-- R85, D33: with a graphics RAM of 16 bytes a Data read past its end goes on, with the next free value
(log 9), and a Data write past it stores nothing. -/
theorem test_small_graphics_ram :
    let m := machine [0xAD, 0x07, 0x20]
    let s := point { m with params := { m.params with chrRamSize := 16 } } 0x0010
    nextWith (fun t => t.a == 0x00 && t.vr.vramAddr == 0x0011 && t.vr.drawn == 1) (step s) = true ∧
      chrBytes (poke s [(0x2007, 0x55)]) = [] ∧
      chrBytes (poke (point s 0x000F) [(0x2007, 0x55)]) = [(0x0F, 0x55)] := by
  decide +kernel

/-- Section 4.5: three lines of the disassembly. -/
theorem test_disassembly :
    disassemble (machine [0xB5, 0x10, 0xD0, 0xFC, 0x0A]) 0x8000 0x8004 =
      [(0x8000, "$8000: LDA $10, X ".toList ++ [Char.ofNat 0x7B] ++ "ZPX".toList ++ [Char.ofNat 0x7D]),
       (0x8002, "$8002: BNE $FC [$8000] ".toList ++ [Char.ofNat 0x7B] ++ "REL".toList ++ [Char.ofNat 0x7D]),
       (0x8004, "$8004: ASL ".toList ++ [Char.ofNat 0x7B] ++ "IMP".toList ++ [Char.ofNat 0x7D])] := by
  decide +kernel

/-! ## Witnesses: concrete states that meet the premises of the statements

Statements with no premise have none. -/

/-- Addresses outside the register window, at its two edges and in ROM. -/
theorem plain_samples : plainAddr (machine []) 0x1FFF ∧ plainAddr (machine []) 0x4000 ∧
    plainAddr (machine []) 0x0200 ∧ plainAddr (machine []) 0x02FF ∧ plainAddr (machine []) 0x8000 ∧
    plainAddr (machine []) 0xFFFF ∧ plainAddr (machine []) 0xFF00 := by
  refine ⟨?_, ?_, ?_, ?_, ?_, ?_, ?_⟩ <;> intro r <;> cases r <;> decide +kernel

/-- The test machine meets the invariant. -/
theorem inv_machine : Inv (machine [0xEA]) where
  params := ⟨by decide, by decide, by decide, by decide⟩
  wram := by decide
  nametable := by decide
  palette := by decide
  cart := by
    intro c h
    cases h
    exact ⟨.inl rfl, by decide +kernel, by decide +kernel, rfl, rfl⟩
  flags := by decide +kernel
  status := by decide +kernel

theorem boundary_machine : AtBoundary (machine [0xEA]) := ⟨rfl, rfl, by decide, rfl⟩

theorem noInterrupt_machine : NoInterrupt (machine [0xEA]) := ⟨rfl, .inl rfl⟩

/-- JumpSetsThePc: pointers 0x02FF and, in ROM, 0xFFFF. -/
theorem witness_JumpSetsThePc :
    (plainAddr (machine []) (word 0x02 0xFF) ∧ plainAddr (machine []) (word 0x02 0x00)) ∧
    plainAddr (machine []) (word 0xFF 0xFF) ∧ plainAddr (machine []) (word 0xFF 0x00) :=
  ⟨⟨plain_samples.2.2.2.1, plain_samples.2.2.1⟩, plain_samples.2.2.2.2.2.1, plain_samples.2.2.2.2.2.2⟩

/-- BranchesTestOneFlag: each flag at each value. -/
theorem witness_BranchesTestOneFlag : [Flag.n, .v, .c, .z].all (fun f =>
    flag f (0xFF : Byte) && !flag f (0x20 : Byte)) = true := by decide

theorem witness_NopAndPlaceholderDoNothingMore : State.reset.params.illegalPolicy = .nop := rfl

/-- OnlyAnIllegalOpcodeUnderTheFaultPolicyFaults: the fault happens. -/
theorem witness_OnlyAnIllegalOpcodeUnderTheFaultPolicyFaults :
    exec (.unofficial 0x02) { State.reset with params := { Params.default with illegalPolicy := .fault } } =
      .fault (.illegalOpcode 0x02 0xFFFF) := rfl

/-- PointerModesReadTheirPointerWithItsWraps: both values of `second`, and a pointer in the register window,
whose bytes are no plain ones. -/
theorem witness_PointerModesReadTheirPointerWithItsWraps :
    (plainAddr (machine []) 0x02FF ∧ plainAddr (machine []) (BitVec.ofNat 16 (0x02FF - 255))) ∧
    (plainAddr (machine []) 0x1FFE ∧ plainAddr (machine []) (BitVec.ofNat 16 (0x1FFE + 1))) ∧
    ¬ plainAddr (machine []) 0x2006 ∧ ¬ plainAddr (machine []) (BitVec.ofNat 16 (0x2006 + 1)) := by
  refine ⟨⟨?_, ?_⟩, ⟨?_, ?_⟩, fun h => h .address rfl, fun h => h .data rfl⟩ <;> intro r <;> cases r <;>
    decide +kernel

theorem witness_PageCrossCyclesAreChargedToReadingInstructions :
    (Instr.lda (.abx 0x00FF)).mode.tag ≠ .rel ∧
      (∃ t, exec (.lda (.abx 0x00FF)) { machine [] with x := 1 } = .next t) ∧
      (resolve (.abx 0x00FF) { machine [] with x := 1 }).1 = true ∧
      (resolve (.abx 0x00FF) { machine [] with x := 0 }).1 = false :=
  ⟨by decide, ⟨_, rfl⟩, by decide, by decide⟩

theorem witness_NoFlagIsWrittenBeyondTheTable :
    (∃ t, exec (.adc (.imm 0x80)) (machine []) = .next t) ∧ ∃ t, exec .plp (machine []) = .next t :=
  ⟨⟨_, rfl⟩, _, rfl⟩

/-- ReadingInstructionsChangeNoMemory: a plain operand, and one in the register window. -/
theorem witness_ReadingInstructionsChangeNoMemory :
    (∃ t, exec (.lda (.abs 0x0010)) (machine []) = .next t) ∧
      (∃ t, exec (.lda (.abs 0x2002)) (machine []) = .next t) ∧ plainAddr (machine []) 0x1FFF ∧
      videoReadTarget (machine []) 0x1FFF = .chr 0x1FFF ∧
      videoReadTarget (machine []) 0x2000 = .nametable 0 ∧
      videoReadTarget State.reset 0x1FFF = .unclaimed :=
  ⟨⟨_, rfl⟩, ⟨_, rfl⟩, plain_samples.1, by decide +kernel, by decide +kernel, by decide +kernel⟩

/-- StoringInstructionsChangeOnlyTheBytesTheyStoreTo: a store to work RAM, with a mirror of it and another
address, stores to Data that reach each video memory, and plain addresses, the pointer's among them. -/
theorem witness_StoringInstructionsChangeOnlyTheBytesTheyStoreTo :
    Inv (machine [0xEA]) ∧ (∃ t, exec (.sta (.abs 0x1FFF)) (machine [0xEA]) = .next t) ∧
    (∃ t, exec (.inc (.abs 0x2007)) (machine [0xEA]) = .next t) ∧
    cpuReadTarget (machine [0xEA]) 0x07FF = cpuWriteTarget (machine [0xEA]) 0x1FFF ∧
    cpuReadTarget (machine [0xEA]) 0x07FE ≠ cpuWriteTarget (machine [0xEA]) 0x1FFF ∧
    cpuWriteTarget (machine [0xEA]) 0x2007 = .vreg .data ∧
    videoWriteTarget (machine [0xEA]) 0x1FFF = .chr 0x1FFF ∧
    videoWriteTarget (machine [0xEA]) 0x2000 = .nametable 0 ∧
    videoWriteTarget (machine [0xEA]) 0x3EFF = .nametable 0x06FF ∧
    videoWriteTarget (machine [0xEA]) 0x3F00 = .palette 0 ∧
    (∃ t, exec (.inc (.ind 0x02FF)) (machine [0xEA]) = .next t) ∧
    plainAddr (machine [0xEA]) 0x02FF ∧ plainAddr (machine [0xEA]) (pointerHighAddr 0x02FF) ∧
    plainAddr (machine [0xEA]) (resolve (.ind 0x02FF) (machine [0xEA])).2.ea := by
  refine ⟨inv_machine, ⟨_, rfl⟩, ⟨_, rfl⟩, by decide +kernel, by decide +kernel, by decide +kernel,
    by decide +kernel, by decide +kernel, by decide +kernel, by decide +kernel, ⟨_, rfl⟩, ?_, ?_, ?_⟩ <;>
    intro r <;> cases r <;> decide +kernel

/-- PushingInstructionsChangeOnlyTheirStackSlots: BRK at SP = 0xFD, with its last slot and the one below. -/
theorem witness_PushingInstructionsChangeOnlyTheirStackSlots :
    Inv (machine [0xEA]) ∧ (∃ t, exec .brk (machine [0xEA]) = .next t) ∧
    cpuReadTarget (machine [0xEA]) 0x01FB = .wram (stackCell ((machine [0xEA]).sp - BitVec.ofNat 8 2)) ∧
    ∀ k : Fin 3, cpuReadTarget (machine [0xEA]) 0x01FA ≠
      .wram (stackCell ((machine [0xEA]).sp - BitVec.ofNat 8 k.val)) :=
  ⟨inv_machine, ⟨_, rfl⟩, by decide +kernel, by decide +kernel⟩

theorem witness_ExecutionNeverTouchesInputsOrTheClock :
    ∃ t, exec (.sta (.abs 0x8000)) (machine [0xEA]) = .next t := ⟨_, rfl⟩

/-- WorkRamIsMirroredFourTimes: the two ends, and a pair that agrees. -/
theorem witness_WorkRamIsMirroredFourTimes : State.reset.wram.wf = true ∧
    (0x0000 : Word).toNat < 0x2000 ∧ (0x1FFF : Word).toNat < 0x2000 ∧
    (0x07FF : Word).toNat % 0x0800 = (0x1FFF : Word).toNat % 0x0800 := by decide

/-- UndecodedAddressesReadZero: unclaimed at 0x4000 and 0x7FFF, claimed at 0x8000. -/
theorem witness_UndecodedAddressesReadZero :
    (((machine []).cart.bind fun c => c.mapper.cpuRead 0x4000) = none) ∧
    (((machine []).cart.bind fun c => c.mapper.cpuRead 0x7FFF) = none) ∧
    (((machine []).cart.bind fun c => c.mapper.cpuWrite 0x7FFF) = none) ∧
    (((machine []).cart.bind fun c => c.mapper.cpuRead 0x8000) = some 0) ∧
    ((State.reset.cart.bind fun c => c.mapper.cpuRead 0x8000) = none) := by decide +kernel

/-- An image of one program bank and no graphics bank. -/
def image : List Byte := ([0, 0, 0, 0, 1] ++ List.replicate 11 0) ++ List.replicate 16384 0

/-- Construction accepts the image. -/
theorem construct_image : ∃ c, construct Params.default (some image) = .ok c := by
  have h4 : image.getD 4 0 = 1 := rfl
  have h5 : image.getD 5 0 = 0 := rfl
  have h6 : image.getD 6 0 = 0 := rfl
  have h7 : image.getD 7 0 = 0 := rfl
  have hl : image.length = 16400 := by
    rw [image, List.length_append, List.length_replicate]
    rfl
  have e1 : headerMapperId 0 0 = 0 := by decide
  have e2 : dataStart 0 = 16 := by decide
  simp only [construct]
  rw [h4, h5, h6, h7, e1, e2]
  simp [hl, mapperFor, Config.prgBankSize, Config.chrBankSize, Params.default]

/-- MapperZeroTranslatesAsStated: the edges of its ranges. -/
theorem witness_MapperZeroTranslatesAsStated :
    (Mapper.mapper0 1 0).cpuRead 0x7FFF = none ∧ (Mapper.mapper0 1 0).cpuRead 0x8000 = some 0 ∧
    (Mapper.mapper0 1 0).cpuRead 0xFFFF = some 0x3FFF ∧ (Mapper.mapper0 2 0).cpuRead 0xFFFF = some 0x7FFF ∧
    (Mapper.mapper0 1 0).chrRead 0x1FFF = some 0x1FFF ∧ (Mapper.mapper0 1 0).chrRead 0x2000 = none ∧
    (Mapper.mapper0 1 1).chrWrite 0x1FFF = none ∧
    (∃ c, construct Params.default (some image) = .ok c) ∧
    (machine []).cart = some (cartOf []) ∧ (cartOf []).mapper = .mapper0 1 (cartOf []).chrBanks ∧
    (cartOf []).mapper.cpuRead 0xFFFF = some 0x3FFF ∧
    0x8000 ≤ (0xBFFF : Word).toNat ∧ (0xBFFF : Word).toNat < 0xC000 :=
  ⟨by decide +kernel, by decide +kernel, by decide +kernel, by decide +kernel, by decide +kernel,
    by decide +kernel, by decide +kernel, construct_image, rfl, rfl, by decide +kernel, by decide, by decide⟩

/-- ProgramWritesFollowThePolicy: both policies, at the ends of the claimed range. -/
theorem witness_ProgramWritesFollowThePolicy :
    (machine []).cart = some (cartOf []) ∧ (cartOf []).prg.wf = true ∧
    (cartOf []).mapper.cpuWrite 0x8000 = some 0 ∧ (cartOf []).mapper.cpuWrite 0xFFFF = some 0x3FFF ∧
    (machine []).params.prgWritePolicy = .store ∧
    ({ Params.default with prgWritePolicy := .discard } : Params).prgWritePolicy = .discard :=
  ⟨rfl, by decide +kernel, by decide +kernel, by decide +kernel, rfl, rfl⟩

/-- OnlyStatusAndDataReadsHaveSideEffects: the first Status and the last Data address have them. -/
theorem witness_OnlyStatusAndDataReadsHaveSideEffects :
    (busRead { State.reset with vr := { State.reset.vr with latch := true } } 0x2002).2 ≠
      { State.reset with vr := { State.reset.vr with latch := true } } ∧
    (busRead State.reset 0x3FFF).2 ≠ State.reset := by decide +kernel

/-- StatusReadClearsBlankAndLatch: the first and the last mirror. -/
theorem witness_StatusReadClearsBlankAndLatch :
    (0x2000 ≤ (0x2002 : Word).toNat ∧ (0x2002 : Word).toNat ≤ 0x3FFF ∧ (0x2002 : Word).toNat % 8 = 2) ∧
    0x2000 ≤ (0x3FFA : Word).toNat ∧ (0x3FFA : Word).toNat ≤ 0x3FFF ∧ (0x3FFA : Word).toNat % 8 = 2 := by
  decide

/-- TwoAddressWritesComposeTheVramAddress: mirrors, from both values of the latch. -/
theorem witness_TwoAddressWritesComposeTheVramAddress :
    (0x2000 ≤ (0x2006 : Word).toNat ∧ (0x2006 : Word).toNat ≤ 0x3FFF ∧ (0x2006 : Word).toNat % 8 = 6) ∧
    (0x2000 ≤ (0x3FFE : Word).toNat ∧ (0x3FFE : Word).toNat ≤ 0x3FFF ∧ (0x3FFE : Word).toNat % 8 = 6) ∧
    (0x2000 ≤ (0x3FFA : Word).toNat ∧ (0x3FFA : Word).toNat ≤ 0x3FFF ∧ (0x3FFA : Word).toNat % 8 = 2) ∧
    State.reset.vr.latch = false ∧ (busWrite State.reset 0x2006 0).vr.latch = true := by
  decide +kernel

/-- DataAccessesAreBufferedAndAdvance: mirrors, and video addresses on both sides of 0x3F00. -/
theorem witness_DataAccessesAreBufferedAndAdvance :
    (0x2000 ≤ (0x2007 : Word).toNat ∧ (0x2007 : Word).toNat ≤ 0x3FFF ∧ (0x2007 : Word).toNat % 8 = 7) ∧
    (0x2000 ≤ (0x3FFF : Word).toNat ∧ (0x3FFF : Word).toNat ≤ 0x3FFF ∧ (0x3FFF : Word).toNat % 8 = 7) ∧
    ¬ 0x3F00 ≤ (0x7EFF : Word).toNat % 16384 ∧ 0x3F00 ≤ (0x7F00 : Word).toNat % 16384 := by
  decide

/-- WriteOnlyRegistersReadZeroAndOthersIgnoreWrites: an address of each register, and bytes that agree in
the one effective bit. -/
theorem witness_WriteOnlyRegistersReadZeroAndOthersIgnoreWrites :
    ((List.range 8).all fun k => decide (0x2000 ≤ (BitVec.ofNat 16 (0x3FF8 + k)).toNat ∧
      (BitVec.ofNat 16 (0x3FF8 + k)).toNat ≤ 0x3FFF ∧ (BitVec.ofNat 16 (0x3FF8 + k)).toNat % 8 = k)) = true ∧
    (0xFB : Byte).getLsbD 2 = State.reset.vr.control.getLsbD 2 ∧
    (0xFE : Byte).getLsbD 0 = State.reset.vr.mask.getLsbD 0 := by
  decide +kernel

/-- VideoMemoryReturnsWhatWasWritten: the edges of its ranges, with a cartridge and without one, addresses
that are writable and one that is not, and another cell. -/
theorem witness_VideoMemoryReturnsWhatWasWritten :
    Inv (machine [0xEA]) ∧ (machine [0xEA]).vr.mask.getLsbD 0 = false ∧
    (∃ c, (machine [0xEA]).cart = some c ∧ c.chrBanks = 0 ∧ c.mapper = .mapper0 c.prgBanks c.chrBanks ∧
      (0x1FFF : BitVec 14).toNat < (machine [0xEA]).params.chrRamSize) ∧
    0x2000 ≤ (0x2000 : BitVec 14).toNat ∧ (0x3EFF : BitVec 14).toNat ≤ 0x3EFF ∧
    0x3F00 ≤ (0x3F00 : BitVec 14).toNat ∧ (0x1FFF : BitVec 14).toNat < 0x2000 ∧
    videoReadTarget (machine [0xEA]) 0x2001 ≠ videoWriteTarget (machine [0xEA]) 0x2400 ∧
    Inv State.reset ∧
    ¬ (0x2000 ≤ (0x1FFF : BitVec 14).toNat ∨ ∃ c, State.reset.cart = some c ∧ c.chrBanks = 0 ∧
      (0x1FFF : BitVec 14).toNat < State.reset.params.chrRamSize) :=
  ⟨inv_machine, rfl, ⟨_, rfl, rfl, rfl, by decide⟩, by decide, by decide, by decide, by decide,
    by decide +kernel,
    ⟨⟨by decide, by decide, by decide, by decide⟩, by decide, by decide, by decide,
      fun c h => (by cases h), by decide, by decide⟩,
    by rintro (h | ⟨c, h, -⟩)
       · revert h; decide
       · cases h⟩

/-- BoundaryTakesNmiThenIrqThenTheInstruction: a state for each of the three, and two that are at no
boundary, with an NMI pending. -/
theorem witness_BoundaryTakesNmiThenIrqThenTheInstruction :
    AtBoundary { machine [0xEA] with nmiPending := true } ∧
    (AtBoundary { machine [0xEA] with irqLine := true } ∧ flag .i (machine [0xEA]).p = false) ∧
    (AtBoundary (machine [0xEA]) ∧ (machine [0xEA]).nmiPending = false ∧
      (machine [0xEA]).irqLine = false) ∧
    State.reset.wasReset = true ∧ State.reset.schedule = [] ∧
    ¬ AtBoundary { machine [0xEA] with nmiPending := true, cycles := 1 } ∧
    ¬ AtBoundary { machine [0xEA] with nmiPending := true, pulseCount := 1 } :=
  ⟨⟨rfl, rfl, by decide, rfl⟩, ⟨⟨rfl, rfl, by decide, rfl⟩, by decide⟩, ⟨boundary_machine, rfl, rfl⟩,
    rfl, rfl, fun h => (nomatch h.cycles), fun h => absurd h.clocks (by decide)⟩

theorem witness_RtiUndoesAnInterruptEntry : Inv (machine [0xEA]) ∧ (machine [0xEA]).wasReset = true :=
  ⟨inv_machine, rfl⟩

/-- PullsUndoPushes: each push completes. -/
theorem witness_PullsUndoPushes : State.reset.wram.wf = true ∧
    (∃ t, exec (.jsr 0x9000) State.reset = .next t) ∧ (∃ t, exec .pha State.reset = .next t) ∧
    ∃ t, exec .php State.reset = .next t :=
  ⟨by decide, ⟨_, rfl⟩, ⟨_, rfl⟩, _, rfl⟩

/-- DecimalFlagHasNoEffectOnArithmetic: T7, the flag set. -/
theorem witness_DecimalFlagHasNoEffectOnArithmetic : State.reset.wram.wf = true ∧
    regs (step { machine [0x69, 0x01] with a := 0x09, p := 0x28 }) =
      some ⟨0x0A, 0, 0, 0xFD, 0x28, 0x8002, 2⟩ := by decide +kernel

/-- CpuClocksOnEveryThirdPulseAndCountsDown: a state for each of the three clauses. -/
theorem witness_CpuClocksOnEveryThirdPulseAndCountsDown :
    (machine [0xEA]).wasReset = true ∧ (machine [0xEA]).schedule = [] ∧ 1 % 3 ≠ 0 ∧ 2 % 3 ≠ 0 ∧
    (State.reset.pulseCount % 3 = 0 ∧ State.reset.cycles ≠ 0) ∧
    (machine [0xEA]).pulseCount % 3 = 0 ∧ (machine [0xEA]).cycles = 0 := by decide +kernel

/-- AnInstructionOccupiesExactlyItsCost: a boundary of cost 2, and a step inside it. -/
theorem witness_AnInstructionOccupiesExactlyItsCost :
    AtBoundary (machine [0xEA]) ∧
    (∃ t, boundary (machine [0xEA]) = .next t ∧ (t.cycles == 2) = true) ∧
    ∃ r, runFor 5 (machine [0xEA]) = .next r ∧ (r.cycles == 0) = true :=
  ⟨boundary_machine, exists_nextWith (by decide +kernel), exists_nextWith (by decide +kernel)⟩

theorem witness_ResetIsFollowedByEightIdleClocks : State.reset.schedule = [] ∧
    ∃ t, runFor 23 (busReset State.reset) = .next t ∧ (t.pulseCount == 23) = true :=
  ⟨rfl, exists_nextWith (by decide +kernel)⟩

/-- StepRunsTheDecodedInstruction: NOP at 0x8000, and bytes of each length that decode with no rest. -/
theorem witness_StepRunsTheDecodedInstruction :
    AtBoundary (machine [0xEA]) ∧ NoInterrupt (machine [0xEA]) ∧
    (∃ rest, decode [memPeek (machine [0xEA]) 0x8000, memPeek (machine [0xEA]) 0x8001,
      memPeek (machine [0xEA]) 0x8002] = .ok (.nop, rest)) ∧
    (encode .nop).length = 1 ∧ plainAddr (machine [0xEA]) (0x8000 + BitVec.ofNat 16 0) ∧
    decode [0xEA] = .ok (.nop, []) ∧ decode [0xA9, 0x00] = .ok (.lda (.imm 0x00), []) ∧
    decode [0x4C, 0x00, 0x90] = .ok (.jmp (.abs 0x9000), []) :=
  ⟨boundary_machine, noInterrupt_machine, ⟨_, rfl⟩, by decide +kernel,
    plainAddr_high _ _ (by decide), rfl, rfl, rfl⟩

/-- DecodeInvertsEncode: T92's instruction. -/
theorem witness_DecodeInvertsEncode : (Instr.jmp (.ind 0x02FF)).WellFormed ∧
    encode (.jmp (.ind 0x02FF)) = [0x6C, 0xFF, 0x02] := by decide +kernel

theorem witness_EncodeInvertsDecode : 3 ≤ [(0x6C : Byte), 0xFF, 0x02].length ∧
    decoded [0x6C, 0xFF, 0x02] = some (.jmp (.ind 0x02FF), []) := by decide +kernel

/-- EveryStepKeepsTheInvariant: a step of an instruction that stores and one of the environment. -/
theorem witness_EveryStepKeepsTheInvariant : Inv (machine [0xEA]) ∧
    (∃ t, step (machine [0xEA]) = .next t ∧ (t.pc == 0x8001) = true) ∧
    ∃ t, step { machine [0xEA] with schedule := [.statusEvent 7] } = .next t ∧
      (t.vr.status == 0xE0) = true :=
  ⟨inv_machine, exists_nextWith (by decide +kernel), exists_nextWith (by decide +kernel)⟩

theorem witness_ResetStateMeetsTheInvariant : ParamsWf Params.default ∧ State.reset.vr.drawn = 0 :=
  ⟨⟨by decide, by decide, by decide, by decide⟩, rfl⟩

/-- TheEngineNeverHalts: nothing scheduled, over any bytes. -/
theorem witness_TheEngineNeverHalts : State.reset.wasReset = true ∧
    State.reset.params.illegalPolicy = .nop ∧
    ∀ im rest, State.reset.schedule ≠ .insert im :: rest := ⟨rfl, rfl, by intro im rest h; cases h⟩

/-- HostAndEnvironmentActionsDoWhatTheySay: an insertion that succeeds, one that fails, a second one, a
pulse before the first reset, and pulses after it: off a multiple of 3, on one with cycles left and with none. -/
theorem witness_HostAndEnvironmentActionsDoWhatTheySay :
    ({ State.reset with schedule := [.insert (some image)] }.schedule = [.insert (some image)] ∧
      State.reset.cart = none ∧ ∃ c, construct State.reset.params (some image) = .ok c) ∧
    construct State.reset.params none = .error .missingFile ∧
    (machine []).cart = some (cartOf []) ∧ (powerOn Params.default State.reset).wasReset = false ∧
    ({ State.reset with schedule := [.pulse] }.wasReset = true ∧ 1 % 3 ≠ 0) ∧
    (State.reset.pulseCount % 3 = 0 ∧ State.reset.cycles ≠ 0) ∧
    (machine []).pulseCount % 3 = 0 ∧ (machine []).cycles = 0 :=
  ⟨⟨rfl, rfl, construct_image⟩, rfl, rfl, rfl, ⟨rfl, by decide⟩, by decide, by decide, rfl⟩

theorem witness_ConstructionReadsTheImage : ∃ c, construct Params.default (some image) = .ok c :=
  construct_image

/-- ConstructionFailsExactlyOnLoadErrors: an image that is accepted, a file of 15 bytes, and a header
of mapper 1. -/
theorem witness_ConstructionFailsExactlyOnLoadErrors :
    (∃ c, construct Params.default (some image) = .ok c) ∧ (List.replicate 15 (0 : Byte)).length < 16 ∧
    16 ≤ (List.replicate 6 (0 : Byte) ++ 0x10 :: List.replicate 9 0).length ∧ headerMapperId 0x10 0x00 ≠ 0 :=
  ⟨construct_image, by decide, by decide, by decide⟩

theorem witness_DisassemblyWalksTheRange : ¬ (0x8000 : Nat) < 0x8000 ∧ (0x8000 : Nat) < 0x8001 ∧
    Mode.rel 0xFC ≠ .imp ∧ (Mnem.unofficial, "???") ∈ [(Mnem.unofficial, "???")] := by decide


end Sys2Proof.Tests
end

section
/-! What one instruction is made of: the reading of its operand, bus writes, and changes of registers and
flags. One case analysis of `exec` (`exec_runs`) gives which flags an instruction writes, that it leaves the
inputs and the clock alone, and that it keeps the invariant. -/

namespace Sys2Proof.Machine

/-! ## Writing flags -/

/-- `q` is `p` with at most the flags of `l` written, and U = 1, B = 0 survive (10_state.md R26, R27, R30). -/
structure WritesFlags (l : List Flag) (p q : Byte) : Prop where
  keeps : ∀ f, l.contains f = false → flag f q = flag f p
  live : flag .u p = true ∧ flag .b p = false → flag .u q = true ∧ flag .b q = false

namespace WritesFlags

variable {l : List Flag} {p q : Byte}

theorem refl (l : List Flag) (p : Byte) : WritesFlags l p p := ⟨fun _ _ => rfl, id⟩

/-- A flag outside the list survives the writing of one inside it. -/
theorem keeps_setFlag (h : WritesFlags l p q) {f g : Flag} (v : Bool) (hf : l.contains f = true)
    (hg : l.contains g = false) : flag g (Machine.setFlag f v q) = flag g p := by
  have hgf : g ≠ f := by
    rintro rfl
    rw [hf] at hg
    cases hg
  rw [flag_setFlag, if_neg hgf]
  exact h.keeps g hg

/-- A flag of the list written that is neither U nor B. -/
theorem setFlag (h : WritesFlags l p q) {f : Flag} {v : Bool} (hf : l.contains f = true := by decide)
    (hu : f ≠ .u := by decide) (hb : f ≠ .b := by decide) : WritesFlags l p (setFlag f v q) where
  keeps _ := h.keeps_setFlag v hf
  live hp := by simpa only [flag_setFlag, if_neg hu.symm, if_neg hb.symm] using h.live hp

/-- B cleared where it is in the list. -/
theorem clearB (h : WritesFlags l p q) (hf : l.contains .b = true := by decide) :
    WritesFlags l p (Machine.setFlag .b false q) where
  keeps _ := h.keeps_setFlag false hf
  live hp := by simpa using (h.live hp).1

/-- `SetZN` where Z and N are in the list. -/
theorem setZN (h : WritesFlags l p q) {r : Byte} (hz : l.contains .z = true := by decide)
    (hn : l.contains .n = true := by decide) : WritesFlags l p (setZN r q) :=
  (h.setFlag hz).setFlag hn

end WritesFlags

/-- P loaded from the stack: every flag may change (43_stack.md R193). -/
theorem writesFlags_pulledFlags (p v : Byte) :
    WritesFlags [.c, .z, .i, .d, .b, .u, .v, .n] p (pulledFlags v) where
  keeps f hf := by cases f <;> cases hf
  live _ := by simp

theorem writesFlags_setZN (r p : Byte) : WritesFlags [.z, .n] p (setZN r p) := (WritesFlags.refl _ p).setZN

theorem writesFlags_adcFlags (a m p : Byte) : WritesFlags [.c, .z, .v, .n] p (adcFlags a m p) :=
  (WritesFlags.refl _ p).setFlag.setFlag.setZN

theorem writesFlags_sbcFlags (a m p : Byte) : WritesFlags [.c, .z, .v, .n] p (sbcFlags a m p) :=
  (WritesFlags.refl _ p).setFlag.setFlag.setZN

theorem writesFlags_bitFlags (a m p : Byte) : WritesFlags [.z, .v, .n] p (bitFlags a m p) :=
  (WritesFlags.refl _ p).setFlag.setFlag.setFlag

theorem writesFlags_compareFlags (r m p : Byte) : WritesFlags [.c, .z, .n] p (compareFlags r m p) :=
  (WritesFlags.refl _ p).setFlag.setFlag.setFlag

theorem writesFlags_shiftFlags (out : Bool) (r p : Byte) : WritesFlags [.c, .z, .n] p (shiftFlags out r p) :=
  (WritesFlags.refl _ p).setFlag.setZN

/-- The live P of BRK: B cleared, I set (45_flags_system.md R227). -/
theorem writesFlags_brk (p : Byte) : WritesFlags [.b, .i] p (setFlag .i true (setFlag .b false p)) :=
  (WritesFlags.refl _ p).clearB.setFlag

/-! ## What an instruction is made of -/

/-- `t` is reached from `s` by the operations instructions are made of, where at most the flags of `l` are
written: resolving a mode and reading an operand, bus writes, and changes of `A`, `X`, `Y`, `SP`, `PC`, the
cost and the flags. -/
inductive Runs (l : List Flag) : State → State → Prop
  | mode {s t} (h : ModeEffects s t) : Runs l s t
  | write (s : State) (a : Word) (v : Byte) : Runs l s (busWrite s a v)
  | registers (s : State) (a x y sp : Byte) (pc : Word) (cycles : Nat) :
    Runs l s { s with a := a, x := x, y := y, sp := sp, pc := pc, cycles := cycles }
  | flags (s : State) {p : Byte} (h : WritesFlags l s.p p) : Runs l s (s.setP p)
  | trans {s t u} (h : Runs l s t) (k : Runs l t u) : Runs l s u

namespace Runs

variable {l : List Flag} {s t : State}

theorem refl (l : List Flag) (s : State) : Runs l s s := .mode (.refl s)

theorem read (a : Word) : Runs l s (busRead s a).2 := .mode (.busRead s a)

theorem setA (h : Runs l s t) (v : Byte) : Runs l s (t.setA v) := h.trans (.registers t v _ _ _ _ _)
theorem setX (h : Runs l s t) (v : Byte) : Runs l s (t.setX v) := h.trans (.registers t _ v _ _ _ _)
theorem setY (h : Runs l s t) (v : Byte) : Runs l s (t.setY v) := h.trans (.registers t _ _ v _ _ _)
theorem setSp (h : Runs l s t) (v : Byte) : Runs l s (t.setSp v) := h.trans (.registers t _ _ _ v _ _)
theorem setPc (h : Runs l s t) (v : Word) : Runs l s (t.setPc v) := h.trans (.registers t _ _ _ _ v _)
theorem setCycles (h : Runs l s t) (v : Nat) : Runs l s (t.setCycles v) :=
  h.trans (.registers t _ _ _ _ _ v)
theorem setP (h : Runs l s t) {p : Byte} (hp : WritesFlags l t.p p) : Runs l s (t.setP p) :=
  h.trans (.flags t hp)

theorem push (h : Runs l s t) (v : Byte) : Runs l s (push t v) := (h.trans (.write t _ v)).setSp _

theorem pull (h : Runs l s t) : Runs l s (pull t).2 := (h.setSp _).trans (read _)

theorem pushWord (h : Runs l s t) (w : Word) : Runs l s (pushWord t w) := (h.push _).push _

theorem pullWord (h : Runs l s t) : Runs l s (pullWord t).2 := h.pull.pull

theorem read16 (h : Runs l s t) (a : Word) : Runs l s (read16 t a).2 := (h.trans (read a)).trans (read _)

theorem takeInterrupt (h : Runs l s t) (vector : Word) (stacked : Byte) {live : Byte}
    (hp : WritesFlags l t.p live) : Runs l s (takeInterrupt t vector stacked live) := by
  have hpush := (h.pushWord t.pc).push stacked
  have hlive : WritesFlags l (Machine.push (Machine.pushWord t t.pc) stacked).p live := by
    simpa [push_eq, pushWord_eq] using hp
  exact ((hpush.setP hlive).read16 vector).setPc _

theorem returnFromInterrupt (s : State) :
    Runs [.c, .z, .i, .d, .b, .u, .v, .n] s (returnFromInterrupt s) := by
  have hpull : Runs [.c, .z, .i, .d, .b, .u, .v, .n] s (Machine.pull s).2 := (refl _ s).pull
  exact (hpull.setP (writesFlags_pulledFlags _ _)).pullWord.setPc _

/-- The frame of R116: the mode is resolved, the operate step runs, a page-cross cycle may be charged. -/
theorem withMode {m : Mode} {extra : Bool} {operate : State → State}
    (h : ∀ u, Runs l u (operate u)) : Runs l s (withMode m extra operate s) :=
  ((Runs.mode (resolve_effects m s)).trans (h _)).setCycles _

/-- An operate step that reads its operand first. -/
theorem withOperand {m : Mode} {f : Byte → State → State} (h : ∀ v u, Runs l u (f v u)) :
    Runs l s (withOperand m f s) :=
  (Runs.mode (operand_effects m s)).trans (h _ _)

theorem writeBack (m : Mode) (v : Byte) : Runs l s (writeBack m v s) := by
  cases m
  case imp => exact (refl l s).setA v
  all_goals exact .write s _ v

/-! ### The shared meanings -/

theorem accumulate (m : Mode) (result : Byte → Byte → Byte → Byte) {flags : Byte → Byte → Byte → Byte}
    (hf : ∀ a v p, WritesFlags l p (flags a v p)) : Runs l s (accumulate m result flags s) :=
  withMode fun _ => withOperand fun _ u => ((refl l u).setA _).setP (hf _ _ _)

theorem modify (m : Mode) (result : Byte → Byte → Byte) {flags : Byte → Byte → Byte}
    (hf : ∀ v p, WritesFlags l p (flags v p)) : Runs l s (Machine.modify m result flags s) := by
  refine withMode fun _ => withOperand fun v u => (writeBack m _).setP ?_
  have hp : (Machine.writeBack m (result v u.p) u).p = u.p := by
    cases m <;> simp [Machine.writeBack]
  rw [hp]
  exact hf v u.p

theorem compareReg (m : Mode) (extra : Bool) (reg : State → Byte) :
    Runs [.c, .z, .n] s (compareReg m extra reg s) :=
  withMode fun _ => withOperand fun _ u => .flags u (writesFlags_compareFlags _ _ _)

theorem load (m : Mode) {setReg : State → Byte → State} (hr : ∀ u v, Runs [.z, .n] u (setReg u v))
    (hp : ∀ u v, (setReg u v).p = u.p) : Runs [.z, .n] s (load m setReg s) :=
  withMode fun _ => withOperand fun v u => (hr u v).setP (hp u v ▸ writesFlags_setZN v u.p)

theorem store (m : Mode) (reg : State → Byte) : Runs l s (store m reg s) :=
  withMode fun u => .write u _ _

theorem transfer (reg : State → Byte) {setReg : State → Byte → State}
    (hr : ∀ u v, Runs [.z, .n] u (setReg u v)) (hp : ∀ u v, (setReg u v).p = u.p) :
    Runs [.z, .n] s (transfer reg setReg s) :=
  withMode fun u => (hr u _).setP (hp u _ ▸ writesFlags_setZN _ u.p)

theorem branchOn (f : Flag) (want : Bool) (disp : Byte) : Runs l s (branchOn f want disp s) := by
  refine withMode fun u => ?_
  unfold branch
  split
  · exact ((refl l u).setCycles _).setPc _
  · exact refl l u

theorem writeFlag {f : Flag} (v : Bool) (hu : f ≠ .u) (hb : f ≠ .b) : Runs [f] s (writeFlag f v s) :=
  withMode fun u => .flags u ((WritesFlags.refl [f] u.p).setFlag (by simp) hu hb)

end Runs

/-- The flags R30's table gives each mnemonic (10_state.md section 2). -/
def tableFlags : Mnem → List Flag
  | .adc | .sbc => [.c, .z, .v, .n]
  | .asl | .lsr | .rol | .ror | .cmp | .cpx | .cpy => [.c, .z, .n]
  | .and | .ora | .eor | .inc | .dec | .inx | .iny | .dex | .dey => [.z, .n]
  | .lda | .ldx | .ldy | .tax | .tay | .txa | .tya | .tsx | .pla => [.z, .n]
  | .bit => [.z, .v, .n]
  | .clc | .sec => [.c]
  | .cli | .sei => [.i]
  | .cld | .sed => [.d]
  | .clv => [.v]
  | .brk => [.b, .i]
  | .plp | .rti => [.c, .z, .i, .d, .b, .u, .v, .n]
  | .txs | .sta | .stx | .sty | .pha | .php | .jmp | .jsr | .rts | .nop | .unofficial => []
  | .bpl | .bmi | .bvc | .bvs | .bcc | .bcs | .bne | .beq => []

/-- Everything an instruction can do: it is made of the operations of `Runs`, and writes no flag beyond
R30's table. -/
theorem exec_runs {i : Instr} {s t : State} (h : exec i s = .next t) : Runs (tableFlags i.mnem) s t := by
  cases i with
  | adc m => cases h; exact .accumulate m _ writesFlags_adcFlags
  | sbc m => cases h; exact .accumulate m _ writesFlags_sbcFlags
  | and m => cases h; exact .accumulate m _ fun _ _ _ => writesFlags_setZN _ _
  | ora m => cases h; exact .accumulate m _ fun _ _ _ => writesFlags_setZN _ _
  | eor m => cases h; exact .accumulate m _ fun _ _ _ => writesFlags_setZN _ _
  | bit m => cases h; exact .withMode fun _ => .withOperand fun _ u => .flags u (writesFlags_bitFlags _ _ _)
  | asl m => cases h; exact .modify m _ fun _ _ => writesFlags_shiftFlags _ _ _
  | lsr m => cases h; exact .modify m _ fun _ _ => writesFlags_shiftFlags _ _ _
  | rol m => cases h; exact .modify m _ fun _ _ => writesFlags_shiftFlags _ _ _
  | ror m => cases h; exact .modify m _ fun _ _ => writesFlags_shiftFlags _ _ _
  | cmp m => cases h; exact .compareReg m _ _
  | cpx m => cases h; exact .compareReg m _ _
  | cpy m => cases h; exact .compareReg m _ _
  | inc m => cases h; exact .modify m _ fun _ _ => writesFlags_setZN _ _
  | dec m => cases h; exact .modify m _ fun _ _ => writesFlags_setZN _ _
  | inx => cases h; exact .withMode fun u => ((Runs.refl _ u).setX _).setP (writesFlags_setZN _ _)
  | iny => cases h; exact .withMode fun u => ((Runs.refl _ u).setY _).setP (writesFlags_setZN _ _)
  | dex => cases h; exact .withMode fun u => ((Runs.refl _ u).setX _).setP (writesFlags_setZN _ _)
  | dey => cases h; exact .withMode fun u => ((Runs.refl _ u).setY _).setP (writesFlags_setZN _ _)
  | lda m => cases h; exact .load m (fun u => (Runs.refl _ u).setA) fun _ _ => rfl
  | ldx m => cases h; exact .load m (fun u => (Runs.refl _ u).setX) fun _ _ => rfl
  | ldy m => cases h; exact .load m (fun u => (Runs.refl _ u).setY) fun _ _ => rfl
  | sta m => cases h; exact .store m _
  | stx m => cases h; exact .store m _
  | sty m => cases h; exact .store m _
  | tax => cases h; exact .transfer _ (fun u => (Runs.refl _ u).setX) fun _ _ => rfl
  | tay => cases h; exact .transfer _ (fun u => (Runs.refl _ u).setY) fun _ _ => rfl
  | txa => cases h; exact .transfer _ (fun u => (Runs.refl _ u).setA) fun _ _ => rfl
  | tya => cases h; exact .transfer _ (fun u => (Runs.refl _ u).setA) fun _ _ => rfl
  | tsx => cases h; exact .transfer _ (fun u => (Runs.refl _ u).setX) fun _ _ => rfl
  | txs => cases h; exact .withMode fun u => (Runs.refl _ u).setSp _
  | php => cases h; exact .withMode fun u => (Runs.refl _ u).push _
  | plp => cases h; exact .withMode fun u => (Runs.refl _ u).pull.setP (writesFlags_pulledFlags _ _)
  | pha => cases h; exact .withMode fun u => (Runs.refl _ u).push _
  | pla => cases h; exact .withMode fun u => ((Runs.refl _ u).pull.setA _).setP (writesFlags_setZN _ _)
  | jmp m => cases h; exact .withMode fun u => (Runs.refl _ u).setPc _
  | bpl d => cases h; exact .branchOn _ _ d
  | bmi d => cases h; exact .branchOn _ _ d
  | bvc d => cases h; exact .branchOn _ _ d
  | bvs d => cases h; exact .branchOn _ _ d
  | bcc d => cases h; exact .branchOn _ _ d
  | bcs d => cases h; exact .branchOn _ _ d
  | bne d => cases h; exact .branchOn _ _ d
  | beq d => cases h; exact .branchOn _ _ d
  | jsr w => cases h; exact .withMode fun u => ((Runs.refl _ u).pushWord _).setPc _
  | rts => cases h; exact .withMode fun u => (Runs.refl _ u).pullWord.setPc _
  | clc => cases h; exact .writeFlag _ nofun nofun
  | sec => cases h; exact .writeFlag _ nofun nofun
  | cli => cases h; exact .writeFlag _ nofun nofun
  | sei => cases h; exact .writeFlag _ nofun nofun
  | cld => cases h; exact .writeFlag _ nofun nofun
  | sed => cases h; exact .writeFlag _ nofun nofun
  | clv => cases h; exact .writeFlag _ nofun nofun
  | brk => cases h; exact .withMode fun u => ((Runs.refl _ u).setPc _).takeInterrupt _ _ (writesFlags_brk _)
  | rti => cases h; exact .withMode Runs.returnFromInterrupt
  | nop => cases h; exact .withMode fun u => Runs.refl _ u
  | unofficial op =>
    simp only [exec, execUnofficial] at h
    split at h
    · cases h
      exact .withMode fun u => Runs.refl _ u
    · cases h

/-! ## What follows for every instruction -/

/-- The flags that are not written keep their values. -/
theorem Runs.flag_eq {l : List Flag} {s t : State} (h : Runs l s t) {f : Flag} (hf : l.contains f = false) :
    flag f t.p = flag f s.p := by
  induction h with
  | mode h => rw [h.p_eq]
  | write s a v => rw [busWrite_p]
  | registers => rfl
  | flags s h => exact h.keeps f hf
  | trans _ _ ih ik => exact ik.trans ih

/-- The inputs, the clock, the opcode byte, the host's own fields and the cartridge's header: what no
instruction changes (10_state.md R33, R34, R275). -/
def hostFields (s : State) :=
  (s.nmiPending, s.irqLine, s.pulseCount, s.opcode, s.params, s.wasReset, s.schedule,
    s.cart.map fun c => (c.prgBanks, c.chrBanks, c.mapperId, c.mirror, c.mapper))

theorem Runs.hostFields_eq {l : List Flag} {s t : State} (h : Runs l s t) : hostFields t = hostFields s := by
  induction h with
  | mode h =>
    obtain ⟨⟨_, _, _, _, rfl⟩, -⟩ := h
    rfl
  | write s a v => simp [hostFields, busWrite_header]
  | registers => rfl
  | flags => rfl
  | trans _ _ ih ik => exact ik.trans ih

/-- The invariant is kept. -/
theorem Runs.inv {l : List Flag} {s t : State} (h : Runs l s t) (hs : Inv s) : Inv t := by
  induction h with
  | mode h => exact hs.of_modeEffects h
  | write s a v => exact hs.busWrite a v
  | registers => exact hs.of_eq rfl rfl rfl rfl rfl hs.flags
  | flags s h => exact hs.setP fun hr => h.live (hs.flags hr)
  | trans _ _ ih ik => exact ik (ih hs)

/-- Settles O25: every instruction is made of operations that write no flag beyond the table. -/
theorem noFlagIsWrittenBeyondTheTable : Obligations.NoFlagIsWrittenBeyondTheTable := by
  intro i s t h f hf
  refine (exec_runs h).flag_eq (l := tableFlags i.mnem) ?_
  cases i <;> exact hf

/-- Settles O29: none of the operations an instruction is made of touches the host's fields. -/
theorem executionNeverTouchesInputsOrTheClock : Obligations.ExecutionNeverTouchesInputsOrTheClock := by
  intro i s t h
  simpa only [hostFields, Prod.mk.injEq] using (exec_runs h).hostFields_eq

end Sys2Proof.Machine
end

section
/-! The reset, power-on, the host's actions and the clock: what each does, and that each keeps the
invariant. -/

namespace Sys2Proof.Machine

/-! ## Reset (70_reset_and_hazards.md R300 to R303) -/

/-- Mapper 0 has nothing to reset (20_memory.md R78). -/
@[simp] theorem Mapper.reset_eq (m : Mapper) : m.reset = m := by
  cases m
  rfl

/-- The whole state after `Bus.Reset()`. -/
theorem busReset_eq (s : State) : busReset s = { s with
    a := 0x00, x := 0x00, y := 0x00, sp := 0xFD, p := 0x20, cycles := 8, nmiPending := false
    pulseCount := 0, wasReset := true, pc := word (memPeek s 0xFFFD) (memPeek s 0xFFFC)
    vr := resetVideo s.vr } := by
  have hcart : (s.cart.map fun c => { c with mapper := c.mapper.reset }) = s.cart := by
    cases s.cart <;> simp
  simp only [busReset, hcart, Config.resetVector]
  rw [read16_plain _ _ (plainAddr_high _ _ (by decide)) (plainAddr_high _ _ (by decide)),
    memPeek_high s _ (0xFFFC + 1) (by decide) (by rfl), memPeek_high s _ 0xFFFC (by decide) (by rfl)]
  rfl

/-- Settles O46: the reset state, written out. -/
theorem resetLeavesTheStatedState : Obligations.ResetLeavesTheStatedState := busReset_eq

theorem Inv.busReset {s : State} (h : Inv s) : Inv (busReset s) := by
  rw [busReset_eq]
  have hflags : flag .u 0x20 = true ∧ flag .b 0x20 = false := by decide
  exact ⟨h.params, h.wram, h.nametable, h.palette, h.cart, fun _ => hflags, fun _ => BitVec.zero_and⟩

/-! ## Power-on -/

/-- Without a cartridge nothing above the register window is decoded (20_memory.md R66). -/
theorem memPeek_no_cart {s : State} (hc : s.cart = none) {a : Word} (h : 0x3FFF < a.toNat) :
    memPeek s a = 0x00 := by
  have h1 : ¬ a ≤ 0x1FFF := by simp [BitVec.le_def]; omega
  have h2 : ¬ a ≤ 0x3FFF := by simp [BitVec.le_def]; omega
  simp only [memPeek, cpuReadTarget, cpuTarget, hc, Option.bind_none, if_neg h1, if_neg h2]

theorem paramsWf_default : ParamsWf Params.default := ⟨by decide, by decide, by decide, by decide⟩

/-- A powered-on machine meets the invariant: no reset has happened, so nothing is said of its flags. -/
theorem inv_powerOn {ps : Params} (h : ParamsWf ps) (s : State) : Inv (powerOn ps s) where
  params := h
  wram := h.wram
  nametable := h.nametable
  palette := h.palette
  cart := nofun
  flags := nofun
  status := nofun

/-- `State.reset` is `Bus.Reset()` of a powered-on machine, once the fields the spec leaves open have the
values `State.reset` gives them (logs 1, 3, 4, 5, 9). -/
theorem busReset_powerOn (s : State) {vr : VideoRegs} (hd : vr.drawn = 0) :
    busReset (powerOn Params.default
      { s with irqLine := false, opcode := 0x00, fetched := 0x00, ea := 0x0000, rel := 0x0000, vr := vr }) =
    State.reset := by
  rw [busReset_eq, memPeek_no_cart rfl (by decide), memPeek_no_cart rfl (by decide)]
  simp only [powerOn, resetVideo, hd]
  rfl

theorem inv_reset : Inv State.reset := by
  rw [← busReset_powerOn State.reset (vr := State.reset.vr) rfl]
  exact (inv_powerOn paramsWf_default _).busReset

/-- Settles O55: `State.reset` is a reset of a powered-on machine, and both keep the invariant. -/
theorem resetStateMeetsTheInvariant : Obligations.ResetStateMeetsTheInvariant :=
  ⟨inv_reset, fun _ s hp => inv_powerOn hp s, rfl, fun _ _ => ⟨rfl, rfl, rfl, rfl, rfl, rfl⟩,
    fun s _ hd => busReset_powerOn s hd⟩

/-! ## The clock and the host's actions -/

/-- Where an updated result is a next state, it is the update of a next state. -/
theorem afterNext_eq_next {f : State → State} {r : Result} {t : State} :
    afterNext f r = .next t ↔ ∃ u, r = .next u ∧ f u = t := by
  cases r <;> simp [afterNext]

theorem afterNext_afterNext (f g : State → State) (r : Result) :
    afterNext f (afterNext g r) = afterNext (fun t => f (g t)) r := by
  cases r <;> rfl

theorem step_of_nil {s : State} (h : s.schedule = []) : step s = pulse s := by
  simp only [step, h]

theorem step_of_cons {s : State} {act : HostAction} {rest : List HostAction} (h : s.schedule = act :: rest) :
    step s = perform act { s with schedule := rest } := by
  simp only [step, h]
  rfl

/-- A pulse off a multiple of 3 is only counted (60_exceptions.md R270). -/
theorem pulse_off {s : State} (hr : s.wasReset = true) (hn : s.pulseCount % 3 ≠ 0) :
    pulse s = .next { s with pulseCount := s.pulseCount + 1 } := by
  rw [pulse, if_pos hr, Config.clockRatio, if_neg hn]
  rfl

/-- A pulse that clocks the CPU while cycles remain takes one off (70_reset_and_hazards.md R310). -/
theorem pulse_busy {s : State} (hr : s.wasReset = true) (hn : s.pulseCount % 3 = 0) (hc : s.cycles ≠ 0) :
    pulse s = .next { s with cycles := s.cycles - 1, pulseCount := s.pulseCount + 1 } := by
  rw [pulse, if_pos hr, Config.clockRatio, if_pos hn, cpuClock, if_neg hc]
  rfl

/-- A pulse that clocks the CPU with no cycles left does the boundary first (70_reset_and_hazards.md R310). -/
theorem pulse_boundary {s : State} (hr : s.wasReset = true) (hn : s.pulseCount % 3 = 0) (hc : s.cycles = 0) :
    pulse s = afterNext (fun t => { t with cycles := t.cycles - 1, pulseCount := t.pulseCount + 1 })
      (boundary s) := by
  rw [pulse, if_pos hr, Config.clockRatio, if_pos hn, cpuClock, if_pos hc, afterNext_afterNext]
  rfl

/-- A pulse before the first reset is refused (10_state.md R50). -/
theorem pulse_before_reset {s : State} (hr : s.wasReset = false) : pulse s = .refused .pulseBeforeReset := by
  simp [pulse, hr]

/-- A status event writes bits 7 to 5 and keeps bits 4 to 0 (60_exceptions.md R268). -/
theorem getLsbD_status (bits : BitVec 3) (st : Byte) (k : Nat) :
    (bits ++ st.extractLsb' 0 5).getLsbD k = if k < 5 then st.getLsbD k else bits.getLsbD (k - 5) := by
  rw [BitVec.getLsbD_append]
  by_cases h : k < 5 <;> simp [h]

/-- Settles O57: each action is one branch of `perform`, and a pulse one of the cases of `pulse`. -/
theorem hostAndEnvironmentActionsDoWhatTheySay : Obligations.HostAndEnvironmentActionsDoWhatTheySay := by
  intro s act rest hs
  rw [step_of_cons hs]
  refine ⟨?reset, ?nmi, ?irq, ?status, ?debugRead, ?insert, ?second, ?early, ?pulse⟩
  case reset => rintro rfl; rfl
  case nmi => rintro rfl; rfl
  case irq => rintro _ rfl; rfl
  case status => rintro bits rfl; exact ⟨_, rfl, getLsbD_status bits s.vr.status⟩
  case debugRead => rintro _ rfl; rfl
  case insert =>
    rintro image rfl hc
    refine ⟨fun c h => ?_, fun e h => ?_⟩
    · simp only [perform, insertCartridge, hc, h]
      rfl
    · simp only [perform, insertCartridge, hc, h]
  case second =>
    rintro image c rfl hc
    simp only [perform, insertCartridge, hc]
  case early =>
    rintro rfl hr
    exact pulse_before_reset hr
  case pulse =>
    rintro rfl hr
    let u : State := { s with schedule := rest }
    exact ⟨pulse_off (s := u) hr, pulse_busy (s := u) hr, pulse_boundary (s := u) hr⟩

/-! ## Every step keeps the invariant -/

theorem Inv.fetchByte {s : State} (h : Inv s) : Inv (fetchByte s).2 := by
  have hread := h.busRead s.pc
  exact hread.of_eq rfl rfl rfl rfl rfl hread.flags

/-- The opcode fetch sets U and leaves B. -/
theorem Inv.fetchOpcode {s : State} (h : Inv s) : Inv (fetchOpcode s) := by
  rw [fetchOpcode_eq]
  refine (h.busRead s.pc).of_eq rfl rfl rfl rfl rfl fun hr => ?_
  simpa using (h.flags (busRead_wasReset s s.pc ▸ hr)).2

theorem Inv.fetchInstr {s : State} (h : Inv s) : Inv (fetchInstr s).2 := by
  unfold Machine.fetchInstr
  dsimp only
  split
  · exact h.fetchOpcode
  · exact h.fetchOpcode.fetchByte
  · exact h.fetchOpcode.fetchByte.fetchByte

/-- An IRQ or NMI entry sets U and clears B (60_exceptions.md R245). -/
theorem Inv.enter {s : State} (h : Inv s) (vector : Word) : Inv (enter s vector) :=
  h.takeInterrupt vector _ fun _ => by simp

theorem Inv.irqEntry {s : State} (h : Inv s) : Inv (irqEntry s) := by
  have henter := h.enter Config.irqVector
  exact henter.of_eq rfl rfl rfl rfl rfl henter.flags

theorem Inv.nmiEntry {s : State} (h : Inv s) : Inv (nmiEntry s) := by
  have hset : Inv (s.setNmiPending false) := h.of_eq rfl rfl rfl rfl rfl h.flags
  have henter := hset.enter s.params.nmiVector
  exact henter.of_eq rfl rfl rfl rfl rfl henter.flags

/-- What is done at an instruction boundary keeps the invariant. -/
theorem Inv.boundary {s t : State} (h : Inv s) (hb : boundary s = .next t) : Inv t := by
  unfold Machine.boundary at hb
  split at hb
  · cases hb
    exact h.nmiEntry
  · split at hb
    · cases hb
      exact h.irqEntry
    · exact (exec_runs hb).inv h.fetchInstr

/-- A pulse keeps the invariant: it is refused, counted, or does the boundary. -/
theorem Inv.pulse {s t : State} (h : Inv s) (hp : pulse s = .next t) : Inv t := by
  cases hr : s.wasReset
  case false =>
    rw [pulse_before_reset hr] at hp
    cases hp
  by_cases hn : s.pulseCount % 3 = 0
  · by_cases hc : s.cycles = 0
    · rw [pulse_boundary hr hn hc] at hp
      obtain ⟨u, hb, rfl⟩ := afterNext_eq_next.1 hp
      have hu := h.boundary hb
      exact hu.of_eq rfl rfl rfl rfl rfl hu.flags
    · rw [pulse_busy hr hn hc] at hp
      cases hp
      exact h.of_eq rfl rfl rfl rfl rfl h.flags
  · rw [pulse_off hr hn] at hp
    cases hp
    exact h.of_eq rfl rfl rfl rfl rfl h.flags

/-- A constructed cartridge is well built (20_memory.md R85). -/
theorem cartridgeWf_of_construct {ps : Params} (hps : ParamsWf ps) {image : Option (List Byte)} {c : Cartridge}
    (h : construct ps image = .ok c) : CartridgeWf ps c := by
  cases image with
  | none => cases h
  | some bytes =>
    simp only [construct, mapperFor] at h
    split at h
    · cases h
    by_cases hid : headerMapperId (bytes.getD 6 0) (bytes.getD 7 0) = 0
    case neg =>
      rw [if_neg hid] at h
      cases h
    simp only [if_pos hid] at h
    split at h
    · cases h
    rename_i hbanks
    split at h
    · cases h
    cases h
    refine ⟨by tauto, ⟨Memory.wf_ofBytes _ _, Memory.within_ofBytes _ _ (by simp)⟩, ?_, hid, rfl⟩
    simp only [chrSize]
    split
    · exact hps.chrRam
    · exact ⟨Memory.wf_ofBytes _ _, Memory.within_ofBytes _ _ (by simp)⟩

/-- An insertion keeps the invariant: what it inserts is a constructed cartridge. -/
theorem Inv.insertCartridge {s t : State} (h : Inv s) {image : Option (List Byte)}
    (hi : insertCartridge image s = .next t) : Inv t := by
  unfold Machine.insertCartridge at hi
  split at hi
  · cases hi
  · split at hi
    · rename_i c hc
      cases hi
      refine h.setCart _ fun d hd => ?_
      cases hd
      exact cartridgeWf_of_construct h.params hc
    · cases hi

/-- A status event keeps Status bits 4 to 0. -/
theorem status_low (bits : BitVec 3) (st : Byte) : (bits ++ st.extractLsb' 0 5) &&& 0x1F = st &&& 0x1F := by
  have hmask : ∀ k < 8, ¬ k < 5 → (0x1F : Byte).getLsbD k = false := by decide
  apply BitVec.eq_of_getLsbD_eq
  intro k hk
  rw [BitVec.getLsbD_and, BitVec.getLsbD_and, getLsbD_status]
  by_cases h : k < 5
  · rw [if_pos h]
  · rw [hmask k hk h, Bool.and_false, Bool.and_false]

theorem Inv.statusEvent {s : State} (h : Inv s) (bits : BitVec 3) : Inv (statusEvent bits s) :=
  ⟨h.params, h.wram, h.nametable, h.palette, h.cart, h.flags,
    fun hr => (status_low bits s.vr.status).trans (h.status hr)⟩

/-- Every scheduled action keeps the invariant. -/
theorem Inv.perform {s t : State} (h : Inv s) {act : HostAction} (hp : perform act s = .next t) : Inv t := by
  cases act with
  | pulse => exact h.pulse hp
  | reset => cases hp; exact h.busReset
  | insert image => exact h.insertCartridge hp
  | debugRead a => cases hp; exact h.busRead a
  | nmiRequest => cases hp; exact h.of_eq rfl rfl rfl rfl rfl h.flags
  | irqLine level => cases hp; exact h.of_eq rfl rfl rfl rfl rfl h.flags
  | statusEvent bits => cases hp; exact h.statusEvent bits

/-- Settles O54: a step is a pulse or a scheduled action, and each keeps the invariant. -/
theorem everyStepKeepsTheInvariant : Obligations.EveryStepKeepsTheInvariant := by
  intro s t h hs
  cases hsch : s.schedule with
  | nil =>
    rw [step_of_nil hsch] at hs
    exact h.pulse hs
  | cons act rest =>
    rw [step_of_cons hsch] at hs
    have hrest : Inv { s with schedule := rest } := h.of_eq rfl rfl rfl rfl rfl h.flags
    exact hrest.perform hs

end Sys2Proof.Machine
end

section
/-! The frame of the instructions that read an operand, and the decimal flag. -/

namespace Sys2Proof.Machine

/-! ## Instructions that read an operand -/

/-- `t` is the state after the operand of `m` is read, with `a`, `x`, `y` in the registers and any flags and
cost. -/
def ReadsInto (m : Mode) (s t : State) (a x y : Byte) : Prop :=
  ∃ p n, t = { (operandOf m s).2 with a := a, x := x, y := y, p := p, cycles := n }

theorem ReadsInto.of_eq {m : Mode} {s t : State} {a p : Byte} {n : Nat}
    (h : t = { (operandOf m s).2 with a := a, p := p, cycles := n }) : ReadsInto m s t a s.x s.y := by
  rw [← operandOf_x m s, ← operandOf_y m s]
  exact ⟨p, n, h⟩

theorem readsInto_accumulate (m : Mode) (result flags : Byte → Byte → Byte → Byte) (s : State) :
    ReadsInto m s (accumulate m result flags s) (result s.a (operandOf m s).1 s.p) s.x s.y :=
  .of_eq (accumulate_eq m result flags s)

theorem readsInto_compareReg (m : Mode) (extra : Bool) {reg : State → Byte} {s : State}
    (h : reg (operandOf m s).2 = reg s) : ReadsInto m s (compareReg m extra reg s) s.a s.x s.y :=
  .of_eq (by rw [compareReg_eq m extra reg s h, ← operandOf_a m s])

/-- A load, whatever the register. -/
theorem load_eq (m : Mode) (setReg : State → Byte → State) (s : State) : ∃ p n,
    load m setReg s = { setReg (operandOf m s).2 (operandOf m s).1 with p := p, cycles := n } :=
  ⟨_, _, rfl⟩

theorem readsInto_load {m : Mode} {s : State} {setReg : State → Byte → State} {a x y : Byte}
    (h : setReg (operandOf m s).2 (operandOf m s).1 = { (operandOf m s).2 with a := a, x := x, y := y }) :
    ReadsInto m s (load m setReg s) a x y := by
  obtain ⟨p, n, hl⟩ := load_eq m setReg s
  exact ⟨p, n, by rw [hl, h]⟩

theorem readsInto_bit (m : Mode) (s : State) :
    ReadsInto m s (withMode m false (withOperand m fun v s => s.setP (bitFlags s.a v s.p)) s) s.a s.x s.y :=
  .of_eq (by rw [← operandOf_a m s]; rfl)

/-- Every reading instruction reads its operand and writes at most its one register. -/
theorem exec_reads {m : Mode} {i : Instr} (hi : i ∈ [.adc m, .sbc m, .and m, .ora m, .eor m, .bit m, .cmp m,
      .cpx m, .cpy m, .lda m, .ldx m, .ldy m]) {s t : State} (h : exec i s = .next t) :
    ∃ a x y, ReadsInto m s t a x y ∧
      (i ∉ [.adc m, .sbc m, .and m, .ora m, .eor m, .lda m] → a = s.a) ∧ (i ≠ .ldx m → x = s.x) ∧
      (i ≠ .ldy m → y = s.y) := by
  have hx := operandOf_x m s
  have hy := operandOf_y m s
  have ha := operandOf_a m s
  simp only [List.mem_cons, List.not_mem_nil, or_false] at hi
  rcases hi with rfl | rfl | rfl | rfl | rfl | rfl | rfl | rfl | rfl | rfl | rfl | rfl <;> cases h
  -- ADC, SBC, AND, ORA, EOR, which write `A`
  iterate 5 exact ⟨_, _, _, readsInto_accumulate m _ _ s, by simp, fun _ => rfl, fun _ => rfl⟩
  -- BIT, CMP, CPX, CPY, which write no register
  · exact ⟨_, _, _, readsInto_bit m s, fun _ => rfl, fun _ => rfl, fun _ => rfl⟩
  · exact ⟨_, _, _, readsInto_compareReg m _ ha, fun _ => rfl, fun _ => rfl, fun _ => rfl⟩
  · exact ⟨_, _, _, readsInto_compareReg m _ hx, fun _ => rfl, fun _ => rfl, fun _ => rfl⟩
  · exact ⟨_, _, _, readsInto_compareReg m _ hy, fun _ => rfl, fun _ => rfl, fun _ => rfl⟩
  -- LDA, LDX, LDY
  · exact ⟨_, _, _, readsInto_load rfl, by simp, fun _ => hx, fun _ => hy⟩
  · exact ⟨_, _, _, readsInto_load rfl, fun _ => ha, (absurd rfl ·), fun _ => hy⟩
  · exact ⟨_, _, _, readsInto_load rfl, fun _ => ha, fun _ => hx, (absurd rfl ·)⟩

/-- Settles O26: the operand's read effects, and the one register. -/
theorem readingInstructionsChangeNoMemory : Obligations.ReadingInstructionsChangeNoMemory := by
  intro m i hi s t h
  obtain ⟨a, x, y, ⟨p, n, rfl⟩, ha, hx, hy⟩ := exec_reads hi h
  have heff := operandOf_effects m s
  refine ⟨?_, heff.vr, fun addr => memPeek_congr heff.cart_eq heff.wram_eq,
    fun va => videoRead_congr heff.cart_eq heff.params_eq heff.vr.mask heff.vr.nametable heff.vr.palette⟩
  rw [ite_eq_left_iff.2 fun hn => (ha hn).symm, ite_eq_left_iff.2 fun hn => (hx hn).symm,
    ite_eq_left_iff.2 fun hn => (hy hn).symm]
  obtain ⟨⟨vr, ea, rel, b, hu⟩, -⟩ := heff
  rw [hu]
  rfl

/-! ## The decimal flag (10_state.md R28) -/

theorem vregRead_setP (s : State) (q : Byte) (r : VReg) :
    vregRead (s.setP q) r = ((vregRead s r).1, (vregRead s r).2.setP q) := by
  cases r <;> rfl

/-- The Bus does not look at `P`. -/
theorem busRead_setP (s : State) (q : Byte) (a : Word) :
    busRead (s.setP q) a = ((busRead s a).1, (busRead s a).2.setP q) := by
  have htarget : cpuReadTarget (s.setP q) a = cpuReadTarget s a := rfl
  unfold busRead
  rw [htarget]
  cases cpuReadTarget s a with
  | vreg r => exact vregRead_setP s q r
  | prg i => rfl
  | wram i => rfl
  | undecoded => rfl

/-- Resolving a mode does not look at `P`. -/
theorem resolve_setP (m : Mode) (s : State) (q : Byte) :
    resolve m (s.setP q) = ((resolve m s).1, (resolve m s).2.setP q) := by
  cases m
  case ind =>
    simp only [resolve, busRead_setP]
    rfl
  case izx =>
    simp only [resolve, zeroPagePointer_eq]
    rfl
  case izy =>
    simp only [resolve, zeroPagePointer_eq]
    rfl
  all_goals rfl

theorem operand_setP (m : Mode) (s : State) (q : Byte) :
    operand m (s.setP q) = ((operand m s).1, (operand m s).2.setP q) := by
  cases m
  case imp => rfl
  case imm => rfl
  all_goals
    simp only [operand, State.setP_ea, busRead_setP]
    rfl

theorem operandOf_setP (m : Mode) (s : State) (q : Byte) :
    operandOf m (s.setP q) = ((operandOf m s).1, (operandOf m s).2.setP q) := by
  simp only [operandOf, resolve_setP, operand_setP]

/-- An instruction that combines `A` with its operand commutes with a write of D, if its result ignores D
and its flags keep it. -/
theorem accumulate_setFlag_d (m : Mode) {result flags : Byte → Byte → Byte → Byte} (s : State) (d : Bool)
    (hr : ∀ a v p, result a v (setFlag .d d p) = result a v p)
    (hf : ∀ a v p, flags a v (setFlag .d d p) = setFlag .d d (flags a v p)) :
    accumulate m result flags (s.setP (setFlag .d d s.p)) =
      (accumulate m result flags s).setP (setFlag .d d (accumulate m result flags s).p) := by
  simp only [accumulate_eq, operandOf_setP, resolve_setP, State.setP_p, State.setP_a, State.setP_cycles, hr, hf]
  rfl

theorem adcResult_setFlag_d (d : Bool) (a m p : Byte) : adcResult a m (setFlag .d d p) = adcResult a m p := by
  simp [adcResult]

theorem sbcResult_setFlag_d (d : Bool) (a m p : Byte) : sbcResult a m (setFlag .d d p) = sbcResult a m p := by
  simp [sbcResult]

theorem adcFlags_setFlag_d (d : Bool) (a m p : Byte) :
    adcFlags a m (setFlag .d d p) = setFlag .d d (adcFlags a m p) := by
  apply flags_ext
  intro f
  simp only [flag_adcFlags, flag_setFlag, adcResult_setFlag_d]
  cases f <;> simp

theorem sbcFlags_setFlag_d (d : Bool) (a m p : Byte) :
    sbcFlags a m (setFlag .d d p) = setFlag .d d (sbcFlags a m p) := by
  apply flags_ext
  intro f
  simp only [flag_sbcFlags, flag_setFlag, sbcResult_setFlag_d]
  cases f <;> simp

@[simp] theorem read16_wram (s : State) (a : Word) : (read16 s a).2.wram = s.wram := by
  simp [read16]

/-- The byte an interrupt entry stacks lies two slots below the stack pointer (60_exceptions.md R245). -/
theorem read_takeInterrupt {s : State} (hw : s.wram.wf = true) (vector : Word) (stacked live : Byte) :
    (takeInterrupt s vector stacked live).wram.read (stackCell (s.sp - 2)) = stacked := by
  simp only [takeInterrupt, State.setPc_wram, read16_wram, State.setP_wram, pushWord_eq, push_eq, State.setSp_wram,
    State.setWram_wram]
  rw [Memory.read_write (Memory.wf_write (Memory.wf_write hw _ _) _ _), if_pos rfl]

/-- PHP: the flags byte goes to the slot at the stack pointer (43_stack.md R192). -/
theorem exec_php (s : State) : exec .php s = .next { s with
    fetched := s.a, sp := s.sp - 1, wram := s.wram.write (stackCell s.sp) (pushedFlags s.p) } := by
  simp only [exec, execPhp, withMode_false, push_eq]
  rfl

/-- BRK: the entry sequence, past the padding byte (45_flags_system.md R227). -/
theorem exec_brk (s : State) : exec .brk s =
    .next (takeInterrupt { s with fetched := s.a, pc := s.pc + 1 } Config.irqVector (setFlag .b true s.p)
      (setFlag .i true (setFlag .b false s.p))) := by
  simp only [exec, execBrk, withMode_false]
  rfl

/-- The byte an IRQ or NMI entry stacks has the live D. -/
theorem flag_d_enter {s : State} (hw : s.wram.wf = true) (vector : Word) :
    flag .d ((enter s vector).wram.read (stackCell (s.sp - 2))) = flag .d s.p := by
  rw [enter, read_takeInterrupt hw]
  simp

/-- Settles O45: the operand, the result and every other flag are computed without D, and every stacked
byte keeps it. -/
theorem decimalFlagHasNoEffectOnArithmetic : Obligations.DecimalFlagHasNoEffectOnArithmetic := by
  refine ⟨fun m s d i hi => ?_, fun s hw => ⟨⟨_, exec_php s, ?_⟩, ⟨_, exec_brk s, ?_⟩, ?_, ?_⟩⟩
  · simp only [List.mem_cons, List.not_mem_nil, or_false] at hi
    rcases hi with rfl | rfl
    · exact ⟨_, rfl,
        congrArg Host.Outcome.next (accumulate_setFlag_d m s d (adcResult_setFlag_d d) (adcFlags_setFlag_d d)),
        (exec_runs (i := .adc m) rfl).flag_eq rfl⟩
    · exact ⟨_, rfl,
        congrArg Host.Outcome.next (accumulate_setFlag_d m s d (sbcResult_setFlag_d d) (sbcFlags_setFlag_d d)),
        (exec_runs (i := .sbc m) rfl).flag_eq rfl⟩
  · rw [Memory.read_write hw, if_pos rfl, flag_pushedFlags, if_neg (by decide)]
  · have hbyte := read_takeInterrupt (s := { s with fetched := s.a, pc := s.pc + 1 }) hw Config.irqVector
      (setFlag .b true s.p) (setFlag .i true (setFlag .b false s.p))
    rw [hbyte, flag_setFlag, if_neg (by decide)]
  · exact flag_d_enter hw _
  · exact flag_d_enter (s := s.setNmiPending false) hw _

end Sys2Proof.Machine
end

section
/-! The Bus and mapper 0: work RAM and its mirrors, program bytes, the register window, undecoded addresses. -/

namespace Sys2Proof.Machine

/-! ## Work RAM -/

/-- Settles O30: an address below 0x2000 reaches one work-RAM cell, which reads as it was written. -/
theorem workRamIsMirroredFourTimes : Obligations.WorkRamIsMirroredFourTimes := by
  intro s a v ha
  refine ⟨busRead_low s a ha, busWrite_low s a v ha, fun hw b hb => ?_⟩
  rw [busWrite_low s a v ha, busRead_low _ b hb, busRead_low s b hb, State.setWram_wram, Memory.read_write hw]

/-! ## Claimed addresses -/

theorem cpuReadTarget_claimed {s : State} {c : Cartridge} {a : Word} {i : Nat} (hs : s.cart = some c)
    (hi : c.mapper.cpuRead a = some i) : cpuReadTarget s a = .prg i := by
  simp [cpuReadTarget, cpuTarget, hs, hi]

theorem cpuWriteTarget_claimed {s : State} {c : Cartridge} {a : Word} {i : Nat} (hs : s.cart = some c)
    (hi : c.mapper.cpuWrite a = some i) : cpuWriteTarget s a = .prg i := by
  simp [cpuWriteTarget, cpuTarget, hs, hi]

theorem prgBytes_of_cart {s : State} {c : Cartridge} (hs : s.cart = some c) : prgBytes s = c.prg := by
  simp [prgBytes, hs]

/-- A claimed read returns the program byte at the mapper's index (20_memory.md R72). -/
theorem busRead_claimed {s : State} {c : Cartridge} {a : Word} {i : Nat} (hs : s.cart = some c)
    (hi : c.mapper.cpuRead a = some i) : busRead s a = (c.prg.read i, s) := by
  simp only [busRead, cpuReadTarget_claimed hs hi, prgBytes_of_cart hs]

/-- A claimed write goes to the program bytes, under the policy (20_memory.md R73). -/
theorem busWrite_claimed {s : State} {c : Cartridge} {a : Word} {i : Nat} (hs : s.cart = some c)
    (hi : c.mapper.cpuWrite a = some i) (v : Byte) : busWrite s a v = writePrg s i v := by
  simp only [busWrite, cpuWriteTarget_claimed hs hi]

/-- Settles O33: a claimed write is `writePrg`, which is one case per policy. -/
theorem programWritesFollowThePolicy : Obligations.ProgramWritesFollowThePolicy := by
  intro s c a v i hs hwf hi
  rw [busWrite_claimed hs hi]
  refine ⟨fun hp => ⟨c.prg.write i v, ?_, fun k => ?_⟩, fun hp => ?_⟩
  · simp only [writePrg, hp, hs, Option.map_some]
    rfl
  · simp only [Memory.read_write hwf, eq_comm]
  · simp only [writePrg, hp]

/-! ## Mapper 0 -/

/-- Mapper 0 claims a CPU read exactly from 0x8000 up (20_memory.md R75). -/
theorem cpuRead_eq_none (m : Mapper) (a : Word) : m.cpuRead a = none ↔ a.toNat < 0x8000 := by
  obtain ⟨p, c⟩ := m
  rw [mapper0_cpuRead, ite_eq_right_iff]
  simp

theorem cpuWrite_eq_none (m : Mapper) (a : Word) : m.cpuWrite a = none ↔ a.toNat < 0x8000 := by
  obtain ⟨p, c⟩ := m
  rw [mapper0_cpuWrite, ite_eq_right_iff]
  simp

theorem mapper0_chrRead (p c : Byte) (a : BitVec 14) : (Mapper.mapper0 p c).chrRead a =
    if a.toNat < 0x2000 then some a.toNat else none := by
  have h : a ≤ 0x1FFF ↔ a.toNat < 0x2000 := BitVec.le_def.trans Nat.lt_succ_iff.symm
  simp only [Mapper.chrRead, h]

theorem mapper0_chrWrite (p c : Byte) (a : BitVec 14) : (Mapper.mapper0 p c).chrWrite a =
    if a.toNat < 0x2000 ∧ c = 0 then some a.toNat else none := by
  have h : a ≤ 0x1FFF ↔ a.toNat < 0x2000 := BitVec.le_def.trans Nat.lt_succ_iff.symm
  simp only [Mapper.chrWrite, h]

/-- With one program bank the upper half of the claimed range mirrors the lower one (20_memory.md R75). -/
theorem memPeek_one_bank {s : State} {c : Cartridge} {a : Word} (hs : s.cart = some c) {banks : Byte}
    (hm : c.mapper = .mapper0 1 banks) (h1 : 0x8000 ≤ a.toNat) (h2 : a.toNat < 0xC000) :
    memPeek s a = memPeek s (a + 0x4000) := by
  have ha : (a + 0x4000).toNat = a.toNat + 0x4000 := by
    rw [BitVec.toNat_add]
    exact Nat.mod_eq_of_lt (by simp; omega)
  have hlo : c.mapper.cpuRead a = some (a.toNat % 16384) := by
    rw [hm, mapper0_cpuRead, if_pos h1, mapper0PrgIndex_eq (.inl rfl)]
    rfl
  have hhi : c.mapper.cpuRead (a + 0x4000) = some (a.toNat % 16384) := by
    rw [hm, mapper0_cpuRead, if_pos (by omega), mapper0PrgIndex_eq (.inl rfl), ha]
    exact congrArg some (Nat.add_mod_right _ _)
  rw [← busRead_fst, ← busRead_fst, busRead_claimed hs hlo, busRead_claimed hs hhi]

/-! ## The register window -/

/-- Only Status and Data have a read effect (60_exceptions.md R256). -/
theorem vregRead_pure {r : VReg} (s : State) (h1 : r ≠ .status) (h2 : r ≠ .data) : (vregRead s r).2 = s := by
  cases r with
  | status => exact absurd rfl h1
  | data => exact absurd rfl h2
  | _ => rfl

theorem ofAddr_eq_status (a : Word) : VReg.ofAddr a = .status ↔ a.toNat % 8 = 2 := by
  rw [VReg.ofAddr_eq]
  have h8 : a.toNat % 8 < 8 := Nat.mod_lt _ (by decide)
  generalize a.toNat % 8 = n at *
  interval_cases n <;> decide

theorem ofAddr_eq_data (a : Word) : VReg.ofAddr a = .data ↔ a.toNat % 8 = 7 := by
  rw [VReg.ofAddr_eq]
  have h8 : a.toNat % 8 < 8 := Nat.mod_lt _ (by decide)
  generalize a.toNat % 8 = n at *
  interval_cases n <;> decide

/-- A read that changes the state reads Status, Data or a mirror of them (20_memory.md R69). -/
theorem register_of_busRead_ne {s : State} {a : Word} (h : (busRead s a).2 ≠ s) :
    0x2000 ≤ a.toNat ∧ a.toNat ≤ 0x3FFF ∧ (a.toNat % 8 = 2 ∨ a.toNat % 8 = 7) := by
  obtain ⟨r, hr⟩ : ∃ r, cpuReadTarget s a = .vreg r := by
    by_contra hplain
    exact h (by rw [busRead_plain fun r hr => hplain ⟨r, hr⟩])
  obtain ⟨h1, h2, rfl⟩ := window_of_vreg hr
  refine ⟨h1, h2, ?_⟩
  rw [← ofAddr_eq_status, ← ofAddr_eq_data]
  by_contra hn
  obtain ⟨hstatus, hdata⟩ := not_or.1 hn
  apply h
  rw [busRead, hr]
  exact vregRead_pure s hstatus hdata

/-- Settles O34: a read and a peek answer one byte, and a read that changes the state reads Status or Data. -/
theorem onlyStatusAndDataReadsHaveSideEffects : Obligations.OnlyStatusAndDataReadsHaveSideEffects := fun s a =>
  ⟨busRead_fst s a, register_of_busRead_ne, (busRead_state s a).1, (busRead_state s a).2⟩

/-! ## Undecoded addresses -/

theorem cpuTarget_undecoded {a : Word} (h : 0x3FFF < a.toNat) : cpuTarget none a = .undecoded := by
  have h1 : ¬ a ≤ 0x1FFF := by simp [BitVec.le_def]; omega
  have h2 : ¬ a ≤ 0x3FFF := by simp [BitVec.le_def]; omega
  simp only [cpuTarget, if_neg h1, if_neg h2]

/-- No cartridge, or one whose answer is `none`. -/
theorem bind_eq_none_iff_of {p : Prop} {f : Cartridge → Option Nat} (hf : ∀ c, f c = none ↔ p)
    (o : Option Cartridge) : o.bind f = none ↔ o = none ∨ p := by
  cases o <;> simp [hf]

/-- Settles O31: an unclaimed address above the register window has no target. -/
theorem undecodedAddressesReadZero : Obligations.UndecodedAddressesReadZero := by
  intro s a ha
  refine ⟨fun h => ?_, fun h v => ?_, bind_eq_none_iff_of (fun c => cpuRead_eq_none c.mapper a) _,
    bind_eq_none_iff_of (fun c => cpuWrite_eq_none c.mapper a) _⟩
  · have ht : cpuReadTarget s a = .undecoded := by rw [cpuReadTarget, h, cpuTarget_undecoded ha]
    simp only [busRead, memPeek, ht, and_self]
  · have ht : cpuWriteTarget s a = .undecoded := by rw [cpuWriteTarget, h, cpuTarget_undecoded ha]
    simp only [busWrite, ht]

end Sys2Proof.Machine
end

section
/-! The construction of a cartridge from an image (20_memory.md R79, R84 to R86). -/

namespace Sys2Proof.Machine

/-- An image that construction accepts (20_memory.md R85): a header, mapper id 0, one or two program banks,
and the declared bytes after the header and the trainer. -/
structure Loadable (image : List Byte) : Prop where
  header : 16 ≤ image.length
  mapperId : headerMapperId (image.getD 6 0) (image.getD 7 0) = 0
  prgBanks : image.getD 4 0 = 1 ∨ image.getD 4 0 = 2
  data : (image.getD 4 0).toNat * 16384 + (image.getD 5 0).toNat * 8192 ≤
    (image.drop (dataStart (image.getD 6 0))).length

/-- The cartridge of an accepted image. -/
def loaded (ps : Params) (image : List Byte) : Cartridge :=
  let data := image.drop (dataStart (image.getD 6 0))
  let prgLen := (image.getD 4 0).toNat * 16384
  { prg := Memory.ofBytes 0 (data.take prgLen)
    chr := if image.getD 5 0 = 0 then ps.init.chrRam
      else Memory.ofBytes 0 ((data.drop prgLen).take ((image.getD 5 0).toNat * 8192))
    prgBanks := image.getD 4 0
    chrBanks := image.getD 5 0
    mapperId := 0
    mirror := headerMirror (image.getD 6 0)
    mapper := .mapper0 (image.getD 4 0) (image.getD 5 0) }

theorem construct_of_loadable {image : List Byte} (h : Loadable image) (ps : Params) :
    construct ps (some image) = .ok (loaded ps image) := by
  have hbanks : ¬ (image.getD 4 0 ≠ 1 ∧ image.getD 4 0 ≠ 2) := fun hn => h.prgBanks.elim hn.1 hn.2
  simp only [construct, mapperFor, h.mapperId, if_neg (Nat.not_lt.2 h.header), if_neg hbanks]
  exact if_neg (Nat.not_lt.2 h.data)

theorem loadable_of_construct {ps : Params} {image : List Byte} {c : Cartridge}
    (h : construct ps (some image) = .ok c) : Loadable image := by
  simp only [construct, mapperFor] at h
  split at h
  · cases h
  rename_i hheader
  by_cases hid : headerMapperId (image.getD 6 0) (image.getD 7 0) = 0
  case neg =>
    rw [if_neg hid] at h
    cases h
  simp only [if_pos hid] at h
  split at h
  · cases h
  rename_i hbanks
  split at h
  · cases h
  rename_i hdata
  exact ⟨Nat.not_lt.1 hheader, hid, by tauto, Nat.not_lt.1 hdata⟩

/-- Construction accepts exactly the loadable images, and builds `loaded`. -/
theorem construct_eq_ok {ps : Params} {image : List Byte} {c : Cartridge} :
    construct ps (some image) = .ok c ↔ Loadable image ∧ c = loaded ps image := by
  refine ⟨fun h => ?_, fun ⟨hl, hc⟩ => hc ▸ construct_of_loadable hl ps⟩
  have hl := loadable_of_construct h
  exact ⟨hl, Except.ok.inj (h.symm.trans (construct_of_loadable hl ps))⟩

/-! ## The image in numbers -/

theorem dataStart_eq (b : Byte) : dataStart b = 16 + if b.getLsbD 2 then 512 else 0 := by
  unfold dataStart
  split <;> rfl

theorem headerMapperId_eq_zero (byte6 byte7 : Byte) :
    headerMapperId byte6 byte7 = 0 ↔ byte7.toNat / 16 * 16 + byte6.toNat / 16 = 0 := by
  rw [← headerMapperId_toNat]
  exact BitVec.toNat_eq

/-- A loadable image, with its bytes and lengths as numbers. -/
theorem loadable_iff (image : List Byte) : Loadable image ↔
    16 ≤ image.length ∧ (image.getD 7 0).toNat / 16 * 16 + (image.getD 6 0).toNat / 16 = 0 ∧
    ((image.getD 4 0).toNat = 1 ∨ (image.getD 4 0).toNat = 2) ∧
    (16 + if (image.getD 6 0).getLsbD 2 then 512 else 0) + (image.getD 4 0).toNat * 16384 +
      (image.getD 5 0).toNat * 8192 ≤ image.length := by
  have hone : image.getD 4 0 = 1 ↔ (image.getD 4 0).toNat = 1 := BitVec.toNat_eq
  have htwo : image.getD 4 0 = 2 ↔ (image.getD 4 0).toNat = 2 := BitVec.toNat_eq
  rw [← headerMapperId_eq_zero, ← dataStart_eq]
  have hlen := image.length_drop (i := dataStart (image.getD 6 0))
  constructor
  · rintro ⟨hheader, hmapper, hbanks, hdata⟩
    rw [hone, htwo] at hbanks
    exact ⟨hheader, hmapper, hbanks, by omega⟩
  · rintro ⟨hheader, hmapper, hbanks, hdata⟩
    exact ⟨hheader, hmapper, by rwa [hone, htwo], by omega⟩

/-- A byte of a part cut out of an image. -/
theorem read_ofBytes_slice {image : List Byte} {start len k : Nat} (hk : k < len) :
    (Memory.ofBytes 0 ((image.drop start).take len)).read k = image.getD (start + k) 0 := by
  rw [read_ofBytes _ _ _ (Nat.zero_le k)]
  simp [List.getD_eq_getElem?_getD, hk]

/-- Settles O32: the claims in numbers, the banks of a loadable image, and a claimed read. -/
theorem mapperZeroTranslatesAsStated : Obligations.MapperZeroTranslatesAsStated := by
  refine ⟨fun prg chr a hb => ?_, fun prg chr a => ⟨mapper0_chrRead prg chr a, mapper0_chrWrite prg chr a⟩,
    fun ps image c hc => ?_, fun s c a i => busRead_claimed, fun s c a hs => memPeek_one_bank hs⟩
  · rw [← mapper0PrgIndex_eq hb]
    exact ⟨mapper0_cpuRead prg chr a, mapper0_cpuWrite prg chr a⟩
  · cases image with
    | none => cases hc
    | some bytes =>
      obtain ⟨hl, rfl⟩ := construct_eq_ok.1 hc
      exact hl.prgBanks

/-- Settles O58: an accepted image is loadable, and its parts are slices of it. -/
theorem constructionReadsTheImage : Obligations.ConstructionReadsTheImage := by
  intro ps image c h
  obtain ⟨hl, rfl⟩ := construct_eq_ok.1 h
  intro h start prgLen
  have hstart : dataStart (image.getD 6 0) = start := dataStart_eq _
  refine ⟨rfl, rfl, rfl, (headerMapperId_eq_zero _ _).1 hl.mapperId, rfl, rfl, fun k hk => ?_, fun h5 => ?_, rfl,
    fun k h5 hk => ?_⟩
  · exact hstart ▸ read_ofBytes_slice hk
  · exact if_pos h5
  · have hchr : (loaded ps image).chr =
        Memory.ofBytes 0 ((image.drop (start + prgLen)).take ((h 5).toNat * 8192)) := by
      rw [← List.drop_drop, ← hstart]
      exact if_neg h5
    rw [hchr, read_ofBytes_slice hk]

/-- Settles O59: construction accepts the loadable images, and each error is a branch of it. -/
theorem constructionFailsExactlyOnLoadErrors : Obligations.ConstructionFailsExactlyOnLoadErrors := by
  refine fun ps image => ⟨?_, ?_, ?_⟩
  · constructor
    · rintro ⟨c, hc⟩
      cases image with
      | none => cases hc
      | some bytes => exact ⟨bytes, rfl, (loadable_iff bytes).1 (loadable_of_construct hc)⟩
    · rintro ⟨bytes, rfl, hl⟩
      exact ⟨_, construct_of_loadable ((loadable_iff bytes).2 hl) ps⟩
  · rintro rfl
    rfl
  · rintro bytes rfl
    refine ⟨fun hshort => ?_, ?_⟩
    · simp only [construct, if_pos hshort]
    · rintro id hheader rfl hid
      simp only [construct, mapperFor, if_neg (Nat.not_lt.2 hheader), if_neg hid]

end Sys2Proof.Machine
end

section
/-! The video address space (60_exceptions.md R262 to R266): what each range reaches, and reading back what was
written. -/

namespace Sys2Proof.Machine

/-! ## What each range reaches -/

theorem videoReadTarget_nametable (s : State) {a : BitVec 14} (h1 : 0x2000 ≤ a.toNat) (h2 : a.toNat ≤ 0x3EFF) :
    videoReadTarget s a = .nametable (nametableIndex (mirroring s) a) := by
  rw [videoReadTarget, chrRead_high s a h1, videoTarget_nametable h1 h2]

theorem videoWriteTarget_nametable (s : State) {a : BitVec 14} (h1 : 0x2000 ≤ a.toNat) (h2 : a.toNat ≤ 0x3EFF) :
    videoWriteTarget s a = .nametable (nametableIndex (mirroring s) a) := by
  rw [videoWriteTarget, chrWrite_high s a h1, videoTarget_nametable h1 h2]

theorem videoReadTarget_palette (s : State) {a : BitVec 14} (h : 0x3F00 ≤ a.toNat) :
    videoReadTarget s a = .palette (paletteIndex a) := by
  rw [videoReadTarget, chrRead_high s a (by omega), videoTarget_palette h]

theorem videoWriteTarget_palette (s : State) {a : BitVec 14} (h : 0x3F00 ≤ a.toNat) :
    videoWriteTarget s a = .palette (paletteIndex a) := by
  rw [videoWriteTarget, chrWrite_high s a (by omega), videoTarget_palette h]

theorem graphicsSize_of_cart {s : State} {c : Cartridge} (hs : s.cart = some c) :
    graphicsSize s = chrSize s.params c := by
  simp [graphicsSize, hs]

theorem chrBytes_of_cart {s : State} {c : Cartridge} (hs : s.cart = some c) : chrBytes s = c.chr := by
  simp [chrBytes, hs]

/-- A mapper claims every video read below 0x2000 (20_memory.md R76). -/
theorem chrRead_low (m : Mapper) {a : BitVec 14} (h : a.toNat < 0x2000) : m.chrRead a = some a.toNat := by
  obtain ⟨p, b⟩ := m
  rw [mapper0_chrRead, if_pos h]

theorem videoReadTarget_cart {s : State} {c : Cartridge} {a : BitVec 14} (hs : s.cart = some c)
    (h : a.toNat < 0x2000) :
    videoReadTarget s a = if a.toNat < chrSize s.params c then .chr a.toNat else .absent a.toNat := by
  rw [videoReadTarget, graphicsSize_of_cart hs, hs, Option.bind_some, chrRead_low c.mapper h]
  rfl

/-- With graphics RAM a write below 0x2000 reaches what a read does (20_memory.md R77). -/
theorem videoWriteTarget_ram {s : State} {c : Cartridge} {a : BitVec 14} (hs : s.cart = some c)
    (hm : c.mapper = .mapper0 c.prgBanks c.chrBanks) (hb : c.chrBanks = 0) (h : a.toNat < 0x2000) :
    videoWriteTarget s a = if a.toNat < chrSize s.params c then .chr a.toNat else .absent a.toNat := by
  have hclaim : c.mapper.chrWrite a = some a.toNat := by rw [hm, mapper0_chrWrite, if_pos ⟨h, hb⟩]
  rw [videoWriteTarget, graphicsSize_of_cart hs, hs, Option.bind_some, hclaim]
  rfl

/-- With graphics ROM no write below 0x2000 is claimed (20_memory.md R77). -/
theorem videoWriteTarget_rom {s : State} {c : Cartridge} {a : BitVec 14} (hs : s.cart = some c)
    (hm : c.mapper = .mapper0 c.prgBanks c.chrBanks) (hb : c.chrBanks ≠ 0) (h : a.toNat < 0x2000) :
    videoWriteTarget s a = .unclaimed := by
  have hclaim : c.mapper.chrWrite a = none := by rw [hm, mapper0_chrWrite, if_neg fun e => hb e.2]
  rw [videoWriteTarget, hs, Option.bind_some, hclaim, videoTarget_low h]

/-! ## What a read returns and a write stores -/

theorem videoRead_nametable (s : State) {a : BitVec 14} (h1 : 0x2000 ≤ a.toNat) (h2 : a.toNat ≤ 0x3EFF) :
    videoRead s a = s.vr.nametable.read (nametableIndex (mirroring s) a) := by
  simp only [videoRead, videoReadTarget_nametable s h1 h2]

theorem videoWrite_nametable (s : State) {a : BitVec 14} (h1 : 0x2000 ≤ a.toNat) (h2 : a.toNat ≤ 0x3EFF)
    (v : Byte) : videoWrite s a v =
      { s with vr := { s.vr with nametable := s.vr.nametable.write (nametableIndex (mirroring s) a) v } } := by
  simp only [videoWrite, videoWriteTarget_nametable s h1 h2, State.setVr]

theorem videoRead_palette (s : State) {a : BitVec 14} (h : 0x3F00 ≤ a.toNat) :
    videoRead s a = paletteEntry s.vr (paletteIndex a) := by
  simp only [videoRead, videoReadTarget_palette s h]

theorem videoWrite_palette (s : State) {a : BitVec 14} (h : 0x3F00 ≤ a.toNat) (v : Byte) :
    videoWrite s a v = { s with vr := { s.vr with palette := s.vr.palette.write (paletteIndex a) v } } := by
  simp only [videoWrite, videoWriteTarget_palette s h, State.setVr]

theorem videoRead_no_cart {s : State} {a : BitVec 14} (hs : s.cart = none) (h : a.toNat < 0x2000) :
    videoRead s a = 0x00 := by
  simp only [videoRead, videoReadTarget, hs, Option.bind_none, videoTarget_low h]

theorem videoWrite_no_cart {s : State} {a : BitVec 14} (hs : s.cart = none) (h : a.toNat < 0x2000) (v : Byte) :
    videoWrite s a v = s := by
  simp only [videoWrite, videoWriteTarget, hs, Option.bind_none, videoTarget_low h]

theorem videoRead_chr {s : State} {c : Cartridge} {a : BitVec 14} (hs : s.cart = some c)
    (h : a.toNat < 0x2000) (hsize : a.toNat < chrSize s.params c) : videoRead s a = c.chr.read a.toNat := by
  simp only [videoRead, videoReadTarget_cart hs h, if_pos hsize, chrBytes_of_cart hs]

/-- With a cartridge, a write below 0x2000 stores a byte exactly in graphics RAM. -/
theorem videoWrite_cart {s : State} {c : Cartridge} {a : BitVec 14} (hs : s.cart = some c)
    (hm : c.mapper = .mapper0 c.prgBanks c.chrBanks) (h : a.toNat < 0x2000) (v : Byte) :
    videoWrite s a v = if c.chrBanks = 0 ∧ a.toNat < chrSize s.params c then
      { s with cart := some { c with chr := c.chr.write a.toNat v } } else s := by
  unfold videoWrite
  by_cases hb : c.chrBanks = 0
  · rw [videoWriteTarget_ram hs hm hb h]
    by_cases hsize : a.toNat < chrSize s.params c
    · simp only [if_pos hsize, if_pos (And.intro hb hsize), writeChr, hs]
      rfl
    · simp only [if_neg hsize, if_neg fun e : _ ∧ _ => hsize e.2]
  · simp only [videoWriteTarget_rom hs hm hb h, if_neg fun e : _ ∧ _ => hb e.1]

/-! ## Reading back -/

/-- The byte behind a target (60_exceptions.md R262). -/
def videoByte (s : State) : VideoTarget → Byte
  | .chr i => (chrBytes s).read i
  | .absent _ => Config.absentByte s.vr.drawn
  | .nametable i => s.vr.nametable.read i
  | .palette i => paletteEntry s.vr i
  | .unclaimed => 0x00

theorem videoRead_eq (s : State) (a : BitVec 14) : videoRead s a = videoByte s (videoReadTarget s a) := by
  unfold videoRead
  cases videoReadTarget s a <;> rfl

/-- A video write changes no address's target. -/
theorem videoReadTarget_videoWrite (s : State) (a b : BitVec 14) (v : Byte) :
    videoReadTarget (videoWrite s a v) b = videoReadTarget s b := by
  unfold videoWrite
  cases videoWriteTarget s a with
  | chr i =>
    simp only [videoReadTarget, mirroring, graphicsSize, writeChr, State.setCart]
    cases s.cart <;> rfl
  | _ => rfl

theorem read_writeChr {s : State} (hc : ∀ c, s.cart = some c → c.chr.wf = true) {i k : Nat} (hik : i ≠ k)
    (v : Byte) : (chrBytes (writeChr s i v)).read k = (chrBytes s).read k := by
  cases hs : s.cart with
  | none => simp only [chrBytes, writeChr, State.setCart_cart, hs, Option.map_none]
  | some c =>
    rw [chrBytes_of_cart hs, chrBytes_of_cart (c := { c with chr := c.chr.write i v })]
    · rw [Memory.read_write (hc c hs), if_neg hik]
    · simp only [writeChr, State.setCart_cart, hs, Option.map_some]

/-- A video write changes the byte behind its own target only. -/
theorem videoByte_videoWrite {s : State} (h : Inv s) {a : BitVec 14} {target : VideoTarget}
    (hne : target ≠ videoWriteTarget s a) (v : Byte) :
    videoByte (videoWrite s a v) target = videoByte s target := by
  unfold videoWrite
  cases hw : videoWriteTarget s a with
  | unclaimed => rfl
  | absent i => rfl
  | chr i =>
    cases target with
    | chr k => exact read_writeChr (fun c hc => (h.cart c hc).chr.1) (fun e => hne (by rw [hw, e])) v
    | _ => rfl
  | nametable i =>
    cases target with
    | nametable k =>
      exact (Memory.read_write h.nametable.1 i k v).trans (if_neg fun e => hne (by rw [hw, e]))
    | _ => rfl
  | palette i =>
    cases target with
    | palette k =>
      have hread : (s.vr.palette.write i v).read k = s.vr.palette.read k :=
        (Memory.read_write h.palette.1 i k v).trans (if_neg fun e => hne (by rw [hw, e]))
      exact congrArg (· &&& _) hread
    | _ => rfl

theorem videoRead_videoWrite_of_ne {s : State} (h : Inv s) {a b : BitVec 14}
    (hne : videoReadTarget s b ≠ videoWriteTarget s a) (v : Byte) :
    videoRead (videoWrite s a v) b = videoRead s b := by
  rw [videoRead_eq, videoReadTarget_videoWrite, videoByte_videoWrite h hne, ← videoRead_eq]

theorem paletteEntry_color {vr : VideoRegs} (h : vr.mask.getLsbD 0 = false) (i : Nat) :
    paletteEntry vr i = vr.palette.read i := by
  simp only [paletteEntry, h, Bool.false_eq_true, if_false]
  exact BitVec.and_allOnes

/-- A nametable or palette byte reads back as it was written. -/
theorem videoRead_videoWrite_high {s : State} (h : Inv s) (hgray : s.vr.mask.getLsbD 0 = false) {a : BitVec 14}
    (ha : 0x2000 ≤ a.toNat) (v : Byte) : videoRead (videoWrite s a v) a = v := by
  by_cases hn : a.toNat ≤ 0x3EFF
  · rw [videoWrite_nametable s ha hn, videoRead_nametable _ ha hn]
    exact (Memory.read_write h.nametable.1 _ _ v).trans (if_pos rfl)
  · have hp : 0x3F00 ≤ a.toNat := Nat.lt_of_not_le hn
    rw [videoWrite_palette s hp, videoRead_palette _ hp]
    refine (paletteEntry_color ?gray _).trans ?back
    · exact hgray
    · exact (Memory.read_write h.palette.1 _ _ v).trans (if_pos rfl)

/-- A graphics-RAM byte reads back as it was written. -/
theorem videoRead_videoWrite_ram {s : State} (h : Inv s) {c : Cartridge} {a : BitVec 14} (hs : s.cart = some c)
    (hb : c.chrBanks = 0) (ha : a.toNat < 0x2000) (hsize : a.toNat < chrSize s.params c) (v : Byte) :
    videoRead (videoWrite s a v) a = v := by
  have hwf := h.cart c hs
  rw [videoWrite_cart hs hwf.mapper ha, if_pos ⟨hb, hsize⟩]
  have hread := videoRead_chr (s := { s with cart := some { c with chr := c.chr.write a.toNat v } }) rfl ha hsize
  exact hread.trans ((Memory.read_write hwf.chr.1 _ _ v).trans (if_pos rfl))

/-- Settles O40: the decode by range, and reading back through it. -/
theorem videoMemoryReturnsWhatWasWritten : Obligations.VideoMemoryReturnsWhatWasWritten := by
  refine ⟨fun s va v => ⟨fun h1 h2 => ⟨videoRead_nametable s h1 h2, videoWrite_nametable s h1 h2 v⟩,
    fun h => ⟨videoRead_palette s h, videoWrite_palette s h v⟩,
    fun h hs => ⟨videoRead_no_cart hs h, videoWrite_no_cart hs h v⟩,
    fun c h hs => ⟨videoRead_chr hs h, fun hm => videoWrite_cart hs hm h v⟩⟩,
    fun s va vb v h hgray => ⟨?_, ?_, fun hne => videoRead_videoWrite_of_ne h hne v⟩⟩
  · intro hwritable
    by_cases ha : 0x2000 ≤ va.toNat
    · exact videoRead_videoWrite_high h hgray ha v
    · obtain ⟨c, hs, hb, hsize⟩ := hwritable.resolve_left ha
      exact videoRead_videoWrite_ram h hs hb (Nat.lt_of_not_le ha) (by rwa [chrSize, if_pos hb]) v
  · intro hn
    obtain ⟨hlow, hram⟩ := not_or.1 hn
    have ha : va.toNat < 0x2000 := Nat.lt_of_not_le hlow
    cases hs : s.cart with
    | none => exact videoWrite_no_cart hs ha v
    | some c =>
      rw [videoWrite_cart hs (h.cart c hs).mapper ha, if_neg]
      rintro ⟨hb, hsize⟩
      rw [chrSize, if_pos hb] at hsize
      exact hram ⟨c, hs, hb, hsize⟩

end Sys2Proof.Machine
end

section
/-! The frame of the instructions that store: a bus write at the resolved address, after reads that touch the
video registers at most. -/

namespace Sys2Proof.Machine

/-- The operand fetch leaves the resolved address. -/
@[simp] theorem operand_ea (m : Mode) (s : State) : (operand m s).2.ea = s.ea := by
  cases m
  case imp => rfl
  case imm => rfl
  all_goals simp only [operand, State.setFetched_ea, busRead_ea]

@[simp] theorem operandOf_ea (m : Mode) (s : State) : (operandOf m s).2.ea = (resolve m s).2.ea := operand_ea m _

theorem cpuReadTarget_congr {s t : State} (hc : t.cart = s.cart) (a : Word) :
    cpuReadTarget t a = cpuReadTarget s a := by
  simp only [cpuReadTarget, hc]

theorem cpuWriteTarget_congr {s t : State} (hc : t.cart = s.cart) (a : Word) :
    cpuWriteTarget t a = cpuWriteTarget s a := by
  simp only [cpuWriteTarget, hc]

/-- `t` is the state after one bus write at `ea` of a state `u`, with any flags. -/
def WritesAtEa (u t : State) : Prop := ∃ v p, t = { busWrite u u.ea v with p := p }

/-- The state in which a storing instruction writes: a store resolves its mode, the others read their operand
too (42_load_store_transfer.md R173, 30_encoding.md R114). -/
def beforeWrite (i : Instr) (m : Mode) (s : State) : State :=
  if i ∈ [.sta m, .stx m, .sty m] then (resolve m s).2 else (operandOf m s).2

theorem writesAtEa_modify {m : Mode} (hm : m ≠ .imp) (result flags : Byte → Byte → Byte) (s : State) :
    WritesAtEa (operandOf m s).2 (Machine.modify m result flags s) :=
  ⟨_, _, by rw [modify_eq, if_neg hm]⟩

theorem writesAtEa_store (m : Mode) (reg : State → Byte) (s : State) :
    WritesAtEa (resolve m s).2 (store m reg s) :=
  ⟨_, _, store_eq m reg s⟩

/-- Every storing instruction ends in one bus write at the resolved address. -/
theorem exec_stores {m : Mode} (hm : m ≠ .imp) {i : Instr} (hi : i ∈ [.sta m, .stx m, .sty m, .asl m, .lsr m,
      .rol m, .ror m, .inc m, .dec m]) {s t : State} (h : exec i s = .next t) :
    WritesAtEa (beforeWrite i m s) t := by
  simp only [List.mem_cons, List.not_mem_nil, or_false] at hi
  rcases hi with rfl | rfl | rfl | rfl | rfl | rfl | rfl | rfl | rfl <;> cases h
  -- STA, STX, STY
  iterate 3
    rw [beforeWrite, if_pos (by simp)]
    exact writesAtEa_store m _ s
  -- ASL, LSR, ROL, ROR, INC, DEC
  all_goals
    rw [beforeWrite, if_neg (by simp)]
    exact writesAtEa_modify hm _ _ s

theorem beforeWrite_effects (i : Instr) (m : Mode) (s : State) : ModeEffects s (beforeWrite i m s) := by
  unfold beforeWrite
  split
  · exact resolve_effects m s
  · exact operandOf_effects m s

@[simp] theorem beforeWrite_ea (i : Instr) (m : Mode) (s : State) :
    (beforeWrite i m s).ea = (resolve m s).2.ea := by
  unfold beforeWrite
  split
  · rfl
  · exact operandOf_ea m s

/-- The video registers before the write, where no read of the instruction lies in the register window. -/
theorem beforeWrite_vr {i : Instr} {m : Mode} {s : State}
    (hptr : ∀ ptr, m = .ind ptr → plainAddr s ptr ∧ plainAddr s (pointerHighAddr ptr))
    (h : i ∈ [.sta m, .stx m, .sty m] ∨ plainAddr s (resolve m s).2.ea) : (beforeWrite i m s).vr = s.vr := by
  have hresolve := resolve_vr hptr
  unfold beforeWrite
  split
  · exact hresolve
  · rename_i hi
    have hplain : plainAddr (resolve m s).2 (resolve m s).2.ea := fun r =>
      cpuReadTarget_congr (resolve_cart m s) _ ▸ h.resolve_left hi r
    exact (operand_vr hplain).trans hresolve

/-- The flags a storing instruction writes: none for a store, C, Z and N at most for the others. -/
theorem tableFlags_stores {m : Mode} {i : Instr} (hi : i ∈ [.sta m, .stx m, .sty m, .asl m, .lsr m, .rol m,
      .ror m, .inc m, .dec m]) :
    tableFlags i.mnem ⊆ [.c, .z, .n] ∧ (i ∈ [.sta m, .stx m, .sty m] → tableFlags i.mnem = []) := by
  simp only [List.mem_cons, List.not_mem_nil, or_false] at hi
  rcases hi with rfl | rfl | rfl | rfl | rfl | rfl | rfl | rfl | rfl <;> simp [Instr.mnem, tableFlags]

/-- What one bus write at `ea` of a state `u` changes, where the invariant holds. -/
theorem WritesAtEa.effects {u t : State} (h : WritesAtEa u t) (hu : Inv u) :
    WriteEffects u t (cpuWriteTarget u u.ea) (videoWriteTarget u (dataAddr u.vr)) := by
  obtain ⟨v, p, rfl⟩ := h
  obtain ⟨hreads, hwram, hprg, hchr, hnametable, hpalette⟩ := hu.busWrite_effects u.ea v
  exact ⟨hreads, hwram, hprg, hchr, hnametable, hpalette⟩

theorem WritesAtEa.frame {u t : State} (h : WritesAtEa u t) :
    ∃ p vr wram cart, t = { u with p := p, vr := vr, wram := wram, cart := cart } := by
  obtain ⟨v, p, rfl⟩ := h
  exact ⟨p, _, _, _, congrArg (fun w : State => { w with p := p }) (busWrite_state u u.ea v)⟩

/-- What reads and then one bus write at `ea` leave alone. -/
theorem WritesAtEa.state {s u t : State} (h : WritesAtEa u t) (hu : ModeEffects s u) :
    t = { s with
      p := t.p, ea := t.ea, rel := t.rel, fetched := t.fetched, vr := t.vr, wram := t.wram, cart := t.cart } := by
  obtain ⟨_, _, _, _, rfl⟩ := h.frame
  obtain ⟨⟨_, _, _, _, rfl⟩, -⟩ := hu
  rfl

theorem WritesAtEa.vr {u t : State} (h : WritesAtEa u t) :
    t.vr = writtenRegs (cpuWriteTarget u u.ea) u.vr t.vr := by
  obtain ⟨v, p, rfl⟩ := h
  exact busWrite_vr u u.ea v

/-- A plain address that does not share the written storage peeks as before. -/
theorem WriteEffects.memPeek_eq {s t : State} {target : CpuTarget} {data : VideoTarget}
    (h : WriteEffects s t target data) {a : Word} (hne : cpuReadTarget s a ≠ target) (ha : plainAddr s a) :
    memPeek t a = memPeek s a :=
  memPeek_of_read (h.reads a) (fun _ hi => h.wram _ fun e => hne (hi.trans e.symm))
    (fun _ hi => h.prg _ fun e => hne (hi.trans e.symm)) ha

/-- Settles O27: the effects of the reads, then those of the one write. -/
theorem storingInstructionsChangeOnlyTheBytesTheyStoreTo :
    Obligations.StoringInstructionsChangeOnlyTheBytesTheyStoreTo := by
  intro m i hm hi s t hs h
  have hreads := beforeWrite_effects i m s
  have hwrite := exec_stores hm hi h
  have heff := hwrite.effects (hs.of_modeEffects hreads)
  have hvr := hwrite.vr
  have hcart := hreads.cart_eq
  rw [cpuWriteTarget_congr hcart, beforeWrite_ea] at heff hvr
  obtain ⟨hsub, hnone⟩ := tableFlags_stores hi
  have hflag : ∀ f, f ∉ tableFlags i.mnem → flag f t.p = flag f s.p := fun f hf =>
    (exec_runs h).flag_eq (by simpa using hf)
  refine ⟨hwrite.state hreads, fun hst => flags_ext fun f => hflag f (by simp [hnone hst]),
    fun f hc hz hn => hflag f fun hf => ?flag, fun a ha hne => ?peek, fun k hk => ?chr,
    fun k hk => (heff.nametable k hk).trans (congrArg (Memory.read · k) hreads.vr.nametable),
    fun k hk => (heff.palette k hk).trans (congrArg (Memory.read · k) hreads.vr.palette),
    hreads.vr, beforeWrite_vr, hvr⟩
  case flag =>
    simpa [hc, hz, hn] using hsub hf
  case peek =>
    have htarget := cpuReadTarget_congr hcart a
    have hplain : plainAddr (beforeWrite i m s) a := fun r => htarget ▸ ha r
    rw [heff.memPeek_eq (htarget ▸ hne) hplain, memPeek_congr hcart hreads.wram_eq ha]
  case chr =>
    rw [heff.chr k hk, chrBytes, hcart]
    rfl

end Sys2Proof.Machine
end

section
/-! Decoding and encoding undo each other: what the decoder answers, and that the table's modes are the
well-formed ones. -/

namespace Sys2Proof

/-! ## The modes of the table -/

theorem Mode.eq_imp_of_tag {m : Mode} (h : m.tag = .imp) : m = .imp := by
  cases m
  case imp => rfl
  all_goals cases h

theorem Mode.eq_rel_of_tag {m : Mode} (h : m.tag = .rel) : m = .rel m.byte := by
  cases m
  case rel => rfl
  all_goals cases h

theorem Mode.eq_abs_of_tag {m : Mode} (h : m.tag = .abs) : m = .abs m.addr := by
  cases m
  case abs => rfl
  all_goals cases h

@[simp] theorem Mode.ofBytes_tag (t : ModeTag) (b1 b2 : Byte) : (Mode.ofBytes t b1 b2).tag = t := by
  cases t <;> rfl

/-- A mode keeps the bytes it is made of, as many as it has operand bytes. -/
theorem Mode.bytes_ofBytes (t : ModeTag) (b1 b2 : Byte) :
    (Mode.ofBytes t b1 b2).bytes = [b1, b2].take t.operands := by
  cases t <;> simp [Mode.ofBytes, Mode.bytes, ModeTag.operands]

open Laws.Encoding (modesOf)

/-- An official instruction is well-formed exactly when the table gives its mnemonic its mode. -/
theorem Instr.wf_eq {i : Instr} (h : i.mnem ≠ .unofficial) : i.wf = (modesOf i.mnem).contains i.mode.tag := by
  cases i
  case unofficial => exact absurd rfl h
  all_goals rfl

/-- Every official entry has a mode its mnemonic admits. -/
theorem tag_mem_modesOf : ∀ r ∈ officialRows, r.tag ∈ modesOf r.mnem := by decide +kernel

/-- No official entry is the placeholder's. -/
theorem officialRows_mnem_ne : ∀ r ∈ officialRows, r.mnem ≠ .unofficial := by decide +kernel

/-- The encoder finds every official entry under its mnemonic and mode: no two entries share both. -/
theorem opcodeOf_official : ∀ r ∈ officialRows, opcodeOf r.mnem r.tag = some r.op := by decide +kernel

/-- The bytes without an official entry are those R119 lists. -/
theorem unofficialOpcodes_contains : ∀ op : Byte, (rowOf op).mnem = .unofficial →
    unofficialOpcodes.contains op = true := by
  decide +kernel

/-! ## The instruction of a table entry -/

@[simp] theorem Instr.ofRow_mnem (r : Row) (m : Mode) : (Instr.ofRow r m).mnem = r.mnem := by
  unfold Instr.ofRow
  split <;> simp only [Instr.mnem, *]

/-- With a mode its mnemonic admits, the instruction of an entry has that mode. -/
theorem Instr.ofRow_mode {r : Row} {m : Mode} (h : m.tag ∈ modesOf r.mnem) : (Instr.ofRow r m).mode = m := by
  obtain ⟨op, n, t, base⟩ := r
  cases n
  case unofficial => cases h
  case bpl | bmi | bvc | bvs | bcc | bcs | bne | beq => exact (Mode.eq_rel_of_tag (List.mem_singleton.1 h)).symm
  case jsr => exact (Mode.eq_abs_of_tag (List.mem_singleton.1 h)).symm
  case inx | iny | dex | dey | tax | tay | txa | tya | tsx | txs | php | plp | pha | pla | rts | clc | sec | cli
      | sei | cld | sed | clv | brk | rti | nop =>
    exact (Mode.eq_imp_of_tag (List.mem_singleton.1 h)).symm
  all_goals rfl

/-- An instruction is that of any entry with its mnemonic; a placeholder's entry must be its byte's. -/
theorem Instr.ofRow_mode_self {r : Row} {i : Instr} (h : r.mnem = i.mnem)
    (hop : ∀ op, i = .unofficial op → r.op = op) : Instr.ofRow r i.mode = i := by
  obtain ⟨op, n, t, base⟩ := r
  cases i <;> cases h
  case unofficial op' => exact congrArg Instr.unofficial (hop op' rfl)
  all_goals rfl

/-! ## The decoder -/

/-- With at least three bytes the decoder answers, and takes as many operand bytes as the mode has. -/
theorem decode_three (op b1 b2 : Byte) (rest : List Byte) : decode (op :: b1 :: b2 :: rest) =
    .ok (.ofBytes op b1 b2, (b1 :: b2 :: rest).drop (rowOf op).tag.operands) := by
  simp only [decode, Instr.ofBytes]
  cases (rowOf op).tag <;> rfl

/-- What the decoder answers: the instruction of the opcode byte's entry with a mode of the entry's tag, whose
bytes follow the opcode byte. -/
theorem decode_eq_ok {bs rest : List Byte} {i : Instr} : decode bs = .ok (i, rest) ↔
    ∃ op m, (rowOf op).tag = m.tag ∧ i = .ofRow (rowOf op) m ∧ bs = op :: (m.bytes ++ rest) := by
  constructor
  · intro h
    cases bs with
    | nil => cases h
    | cons op bs =>
      simp only [decode, Instr.ofBytes] at h
      split at h
      case h_4 => cases h
      all_goals
        rename_i hlen
        cases h
        exact ⟨op, _, (Mode.ofBytes_tag ..).symm, rfl, by rw [Mode.bytes_ofBytes, hlen]; rfl⟩
  · rintro ⟨op, m, ht, rfl, rfl⟩
    cases m <;> simp [decode, ht, Mode.tag, ModeTag.operands, Mode.bytes, Instr.ofBytes, Mode.ofBytes]

/-! ## The round trips -/

/-- The encoding of an official instruction: the table's opcode byte and the operand bytes. -/
theorem encode_official {i : Instr} (h : i.mnem ≠ .unofficial) :
    encode i = ((opcodeOf i.mnem i.mode.tag).map fun op => op :: i.mode.bytes).getD [] := by
  cases i
  case unofficial => exact absurd rfl h
  all_goals rfl

/-- The encoding of every well-formed instruction, from the table having its mnemonic with its mode. -/
theorem encode_statement (i : Instr) : Laws.Encoding.Statement i := by
  by_cases h : i.mnem = .unofficial
  · cases i
    case unofficial op => exact Laws.Encoding.unofficial op
    all_goals cases h
  · exact Laws.Encoding.of_isSome (fun hw => Laws.Encoding.isSome_of_contains (Instr.wf_eq h ▸ hw))
      (encode_official h)

/-- The instruction of an entry with a mode of the entry's tag is well-formed, and its encoding is the entry's
byte and the mode's bytes. -/
theorem wf_and_encode_ofRow {op : Byte} {m : Mode} (ht : (rowOf op).tag = m.tag) :
    (Instr.ofRow (rowOf op) m).WellFormed ∧ encode (.ofRow (rowOf op) m) = op :: m.bytes := by
  rcases Machine.rowOf_mem_or op with ⟨hmem, hop⟩ | hrow
  · have hmode : (Instr.ofRow (rowOf op) m).mode = m := Instr.ofRow_mode (ht ▸ tag_mem_modesOf _ hmem)
    have hmnem : (Instr.ofRow (rowOf op) m).mnem ≠ .unofficial := by
      simpa using officialRows_mnem_ne _ hmem
    refine ⟨?_, ?_⟩
    · rw [Instr.WellFormed, Instr.wf_eq hmnem, hmode, Instr.ofRow_mnem, ← ht]
      simpa using tag_mem_modesOf _ hmem
    · rw [encode_official hmnem, hmode, Instr.ofRow_mnem, ← ht, opcodeOf_official _ hmem, hop]
      rfl
  · have hbyte := unofficialOpcodes_contains op (by rw [hrow])
    rw [hrow] at ht ⊢
    rw [Mode.eq_imp_of_tag ht.symm]
    exact ⟨hbyte, if_pos hbyte⟩

/-- Settles O51: the encoding is an opcode byte whose entry is the instruction's, and its operand bytes. -/
theorem decodeInvertsEncode : Obligations.DecodeInvertsEncode := by
  intro i rest hw
  obtain ⟨op, henc, hmnem, htag⟩ := encode_statement i hw
  have hop : ∀ op', i = .unofficial op' → (rowOf op).op = op' := by
    rintro op' rfl
    have hbyte : unofficialOpcodes.contains op' = true := hw
    rw [encode, if_pos hbyte] at henc
    rw [rowOf_op]
    exact (List.cons.inj henc).1.symm
  exact decode_eq_ok.2 ⟨op, i.mode, htag, (Instr.ofRow_mode_self hmnem hop).symm, by rw [henc]; rfl⟩

/-- Settles O52: three bytes hold every operand, and what is decoded is the instruction of a table entry. -/
theorem encodeInvertsDecode : Obligations.EncodeInvertsDecode := by
  intro bs
  refine ⟨fun hlen => ?total, fun i rest h => ?exact⟩
  case total =>
    match bs, hlen with
    | op :: b1 :: b2 :: rest, _ => exact ⟨_, _, decode_three op b1 b2 rest⟩
  case exact =>
    obtain ⟨op, m, ht, rfl, rfl⟩ := decode_eq_ok.1 h
    obtain ⟨hwf, henc⟩ := wf_and_encode_ofRow ht
    exact ⟨hwf, by rw [henc]; rfl⟩

/-- Settles O53: the decoder, run on each list of bytes. -/
theorem sampleBytesDecodeAsTheMapSays : Obligations.SampleBytesDecodeAsTheMapSays :=
  ⟨rfl, rfl, rfl, rfl, rfl, rfl, rfl, rfl, rfl, rfl⟩

end Sys2Proof
end

section
/-! The addressing modes as statements of their addresses, and the page-cross cycle. -/

namespace Sys2Proof.Machine

/-! ## Addresses in numbers -/

/-- A byte index wraps within the zero page (30_encoding.md R104, R105). -/
theorem toNat_zeroPageIndexed (b r : Byte) : ((b + r).setWidth 16).toNat = (b.toNat + r.toNat) % 256 := by
  rw [BitVec.toNat_setWidth, BitVec.toNat_add]
  omega

/-- A word index wraps at 65536 (30_encoding.md R107, R108, R111). -/
theorem toNat_wordIndexed (w : Word) (r : Byte) : (w + r.setWidth 16).toNat = (w.toNat + r.toNat) % 65536 := by
  have := r.isLt
  rw [BitVec.toNat_add, BitVec.toNat_setWidth, Nat.mod_eq_of_lt (by omega : r.toNat < 2 ^ 16)]

/-- Sign extension fills the high byte with the sign (30_encoding.md R112). -/
theorem signExtend_eq_word (b : Byte) : b.signExtend 16 = if b.msb then word 0xFF b else word 0x00 b := by
  have := b.isLt
  apply BitVec.eq_of_toNat_eq
  rw [BitVec.toNat_signExtend, BitVec.toNat_setWidth]
  split
  · rw [word_toNat, show (0xFF : Byte).toNat = 255 from rfl]
    omega
  · rw [word_toNat, show (0x00 : Byte).toNat = 0 from rfl]
    omega

/-- The second address of an indirect pointer, as a number (30_encoding.md R109). -/
theorem pointerHighAddr_eq (ptr : Word) : pointerHighAddr ptr =
    BitVec.ofNat 16 (if ptr.toNat % 256 = 255 then ptr.toNat - 255 else ptr.toNat + 1) := by
  have hlow : loByte ptr = 0xFF ↔ ptr.toNat % 256 = 255 := by
    rw [← BitVec.toNat_inj, loByte_toNat]
    rfl
  have := ptr.isLt
  apply BitVec.eq_of_toNat_eq
  simp only [pointerHighAddr, hlow, BitVec.toNat_ofNat]
  split
  · rw [word_toNat, hiByte_toNat, show (0x00 : Byte).toNat = 0 from rfl]
    omega
  · rw [BitVec.toNat_add]
    rfl

/-! ## The modes without a pointer -/

/-- Settles O22: each mode's address, in numbers. -/
theorem directModesFormTheirAddress : Obligations.DirectModesFormTheirAddress := by
  intro s
  refine ⟨rfl, fun _ => rfl, fun _ => rfl, fun b => ?zp0, fun b => ⟨_, toNat_zeroPageIndexed b s.x, rfl⟩,
    fun b => ⟨_, toNat_zeroPageIndexed b s.y, rfl⟩, fun _ => rfl, fun w => ⟨_, toNat_wordIndexed w s.x, ?abx⟩,
    fun w => ⟨_, toNat_wordIndexed w s.y, ?aby⟩, fun b => ?rel, rfl, fun _ => rfl, fun m himp himm => ?operand⟩
  case zp0 => rw [← setWidth_eq_word]; rfl
  case abx => rw [← crosses_eq]; rfl
  case aby => rw [← crosses_eq]; rfl
  case rel => rw [← signExtend_eq_word]; rfl
  case operand =>
    cases m
    case imp => exact absurd rfl himp
    case imm => exact absurd rfl himm
    all_goals rfl

/-! ## The pointer modes -/

/-- IND: two bus reads, the low byte's first (30_encoding.md R109). -/
theorem resolve_ind (ptr : Word) (s : State) : resolve (.ind ptr) s =
    (false, { (busRead (busRead s ptr).2 (pointerHighAddr ptr)).2 with
      ea := word (busRead (busRead s ptr).2 (pointerHighAddr ptr)).1 (busRead s ptr).1 }) := rfl

/-- The little-endian word at zero-page cell `t`, wrapping at 256 (30_encoding.md R110, R111). -/
def zeroPageWord (s : State) (t : Byte) : Word :=
  word (s.wram.read ((t.toNat + 1) % 256)) (s.wram.read t.toNat)

theorem zeroPageWord_toNat (s : State) (t : Byte) : (zeroPageWord s t).toNat =
    (s.wram.read t.toNat).toNat + 256 * (s.wram.read ((t.toNat + 1) % 256)).toNat := by
  rw [zeroPageWord, word_toNat, Nat.add_comm]

theorem resolve_izx (b : Byte) (s : State) :
    resolve (.izx b) s = (false, { s with ea := zeroPageWord s (b + s.x) }) := by
  simp only [resolve, zeroPagePointer_eq]
  rfl

theorem resolve_izy (b : Byte) (s : State) : resolve (.izy b) s =
    (crosses (zeroPageWord s b + s.y.setWidth 16) (zeroPageWord s b),
      { s with ea := zeroPageWord s b + s.y.setWidth 16 }) := by
  simp only [resolve, zeroPagePointer_eq]
  rfl

/-- Settles O23: the two bytes of each pointer, and the address they form. -/
theorem pointerModesReadTheirPointerWithItsWraps : Obligations.PointerModesReadTheirPointerWithItsWraps := by
  intro s b ptr
  dsimp only
  rw [← pointerHighAddr_eq]
  refine ⟨⟨_, resolve_izx b s, ?izx⟩,
    ⟨zeroPageWord s b, _, zeroPageWord_toNat s b, toNat_wordIndexed _ s.y, ?izy⟩, resolve_ind ptr s, fun hlo hhi => ?plain⟩
  case izx => rw [zeroPageWord_toNat, BitVec.toNat_add, Nat.mod_add_mod]
  case izy => rw [resolve_izy, crosses_eq]
  case plain => rw [resolve_ind, busRead_plain hlo, busRead_plain hhi]

/-! ## The page-cross cycle (30_encoding.md R115) -/

/-- An instruction whose operate step charges nothing costs one cycle more on a page cross, if its mnemonic
says so. -/
theorem withMode_cycles (m : Mode) (extra : Bool) {operate : State → State}
    (h : ∀ u, (operate u).cycles = u.cycles) (s : State) :
    (withMode m extra operate s).cycles = s.cycles + ((resolve m s).1 && extra).toNat := by
  simp only [withMode, State.setCycles_cycles, h, resolve_cycles]

/-- The same for a step that reads its operand first. -/
theorem withMode_withOperand_cycles (m : Mode) (extra : Bool) {f : Byte → State → State}
    (h : ∀ v u, (f v u).cycles = u.cycles) (s : State) :
    (withMode m extra (withOperand m f) s).cycles = s.cycles + ((resolve m s).1 && extra).toNat :=
  withMode_cycles m extra (fun u => (h _ _).trans (operand_cycles m u)) s

@[simp] theorem writeBack_cycles (m : Mode) (v : Byte) (s : State) : (writeBack m v s).cycles = s.cycles := by
  cases m
  case imp => rfl
  all_goals exact busWrite_cycles s _ v

@[simp] theorem push_cycles (s : State) (v : Byte) : (push s v).cycles = s.cycles := by
  rw [push_eq]
  rfl

@[simp] theorem pull_cycles (s : State) : (pull s).2.cycles = s.cycles := by
  rw [pull_eq]
  rfl

@[simp] theorem pushWord_cycles (s : State) (w : Word) : (pushWord s w).cycles = s.cycles := by
  rw [pushWord_eq]

@[simp] theorem pullWord_cycles (s : State) : (pullWord s).2.cycles = s.cycles := by
  rw [pullWord_eq]

@[simp] theorem takeInterrupt_cycles (s : State) (vector : Word) (stacked live : Byte) :
    (takeInterrupt s vector stacked live).cycles = s.cycles := by
  simp [takeInterrupt, read16]

@[simp] theorem returnFromInterrupt_cycles (s : State) : (returnFromInterrupt s).cycles = s.cycles := by
  rw [returnFromInterrupt_eq]

/-- Settles O24: no instruction but a branch charges anything in its operate step, so the cost is the frame's. -/
theorem pageCrossCyclesAreChargedToReadingInstructions :
    Obligations.PageCrossCyclesAreChargedToReadingInstructions := by
  intro i s t hbranch h
  cases i
  case bpl | bmi | bvc | bvs | bcc | bcs | bne | beq => exact absurd rfl hbranch
  case unofficial =>
    simp only [exec, execUnofficial] at h
    split at h <;> cases h
    exact withMode_cycles .imp false (fun _ => rfl) s
  all_goals cases h
  case adc m | sbc m | and m | ora m | eor m | bit m | cmp m | cpx m | cpy m | lda m | ldx m | ldy m =>
    exact withMode_withOperand_cycles m _ (fun _ _ => rfl) s
  case asl m | lsr m | rol m | ror m | inc m | dec m =>
    exact withMode_withOperand_cycles m false (fun _ u => by simp) s
  case sta m | stx m | sty m => exact withMode_cycles m false (fun u => busWrite_cycles u _ _) s
  case jmp m => exact withMode_cycles m false (fun _ => rfl) s
  case jsr w => exact withMode_cycles (.abs w) false (fun u => by simp) s
  case php | plp | pha | pla | rts | brk | rti => exact withMode_cycles .imp false (fun u => by simp) s
  all_goals exact withMode_cycles .imp false (fun _ => rfl) s

end Sys2Proof.Machine
end

section
/-! Fetching and running the instruction at `PC`, and that the engine never halts. -/

namespace Sys2Proof.Machine

/-! ## Fetching -/

/-- A byte of the instruction stream: one bus read at `PC`, with `PC` named before and after. -/
theorem fetchByte_at {s : State} {a b : Word} (ha : s.pc = a) (hb : a + 1 = b) :
    fetchByte s = ((busRead s a).1, { (busRead s a).2 with pc := b }) := by
  rw [fetchByte_eq, ha, hb]

section

variable {s s0 s1 s2 : State} {b1 b2 : Byte} (h0 : fetchOpcode s = s0)
include h0

theorem fetchInstr_of_operands_zero (h : (rowOf s0.opcode).tag.operands = 0) :
    fetchInstr s = (.ofBytes s0.opcode 0 0, s0) := by
  simp only [fetchInstr, h0, h]

theorem fetchInstr_of_operands_one (h1 : fetchByte s0 = (b1, s1)) (h : (rowOf s0.opcode).tag.operands = 1) :
    fetchInstr s = (.ofBytes s0.opcode b1 0, s1) := by
  simp only [fetchInstr, h0, h1, h]

theorem fetchInstr_of_operands_two (h1 : fetchByte s0 = (b1, s1)) (h2 : fetchByte s1 = (b2, s2))
    (h : (rowOf s0.opcode).tag.operands = 2) : fetchInstr s = (.ofBytes s0.opcode b1 b2, s2) := by
  simp only [fetchInstr, h0, h1, h2, h]

end

/-- What three bytes decode to, and how many of them it occupies. -/
theorem decode_three_eq_ok {op b1 b2 : Byte} {i : Instr} {rest : List Byte}
    (h : decode [op, b1, b2] = .ok (i, rest)) :
    i = .ofBytes op b1 b2 ∧ (encode i).length = (rowOf op).tag.operands + 1 := by
  have hi : i = .ofBytes op b1 b2 := by
    rw [decode_three] at h
    cases h
    rfl
  refine ⟨hi, ?_⟩
  have htag := Mode.ofBytes_tag (rowOf op).tag b1 b2
  rw [hi, Instr.ofBytes, (wf_and_encode_ofRow htag.symm).2, List.length_cons, Mode.bytes_length, htag]

/-- Bytes past the mode's operand bytes do not matter. -/
theorem ofBytes_operands_zero {op : Byte} (h : (rowOf op).tag.operands = 0) (b1 b2 : Byte) :
    Instr.ofBytes op b1 b2 = .ofBytes op 0 0 := by
  unfold Instr.ofBytes
  cases ht : (rowOf op).tag <;> simp_all [ModeTag.operands, Mode.ofBytes]

theorem ofBytes_operands_one {op : Byte} (h : (rowOf op).tag.operands = 1) (b1 b2 : Byte) :
    Instr.ofBytes op b1 b2 = .ofBytes op b1 0 := by
  unfold Instr.ofBytes
  cases ht : (rowOf op).tag <;> simp_all [ModeTag.operands, Mode.ofBytes]

/-- The state after the first `n` bytes of the instruction at `PC` are read outside the register window
(30_encoding.md R116). -/
def afterBytes (s : State) (n : Nat) : State :=
  { s with
    pc := s.pc + BitVec.ofNat 16 n, opcode := memPeek s s.pc
    p := setFlag .u true s.p, cycles := (rowOf (memPeek s s.pc)).base }

theorem fetchOpcode_plain {s : State} (h : plainAddr s s.pc) : fetchOpcode s = afterBytes s 1 := by
  rw [fetchOpcode_eq, busRead_plain h]
  rfl

/-- An operand byte outside the register window: the byte peeked, and no effect. -/
theorem fetchByte_afterBytes {s : State} {n : Nat} (h : plainAddr s (s.pc + BitVec.ofNat 16 n)) :
    fetchByte (afterBytes s n) = (memPeek s (s.pc + BitVec.ofNat 16 n), afterBytes s (n + 1)) := by
  have hpc : s.pc + BitVec.ofNat 16 n + 1 = s.pc + BitVec.ofNat 16 (n + 1) := by
    rw [BitVec.add_assoc, BitVec.ofNat_add]
    rfl
  have hplain : plainAddr (afterBytes s n) (s.pc + BitVec.ofNat 16 n) := h
  rw [fetchByte_at (a := s.pc + BitVec.ofNat 16 n) rfl hpc, busRead_plain hplain]
  rfl

/-- The fetch of an instruction whose bytes lie outside the register window. -/
theorem fetchInstr_plain {s : State}
    (h : ∀ k ≤ (rowOf (memPeek s s.pc)).tag.operands, plainAddr s (s.pc + BitVec.ofNat 16 k)) :
    fetchInstr s = (.ofBytes (memPeek s s.pc) (memPeek s (s.pc + 1)) (memPeek s (s.pc + 2)),
      afterBytes s ((rowOf (memPeek s s.pc)).tag.operands + 1)) := by
  have h0 : fetchOpcode s = afterBytes s 1 := fetchOpcode_plain (by simpa using h 0 (Nat.zero_le _))
  have hle := (rowOf (memPeek s s.pc)).tag.operands_le
  rcases hn : (rowOf (memPeek s s.pc)).tag.operands with _ | _ | _ | n
  · rw [ofBytes_operands_zero hn]
    exact fetchInstr_of_operands_zero h0 hn
  · rw [ofBytes_operands_one hn]
    exact fetchInstr_of_operands_one h0 (fetchByte_afterBytes (h 1 (by omega))) hn
  · exact fetchInstr_of_operands_two h0 (fetchByte_afterBytes (h 1 (by omega)))
      (fetchByte_afterBytes (h 2 (by omega))) hn
  · omega

/-! ## Running the instruction at `PC` -/

/-- At a boundary with no interrupt the instruction at `PC` is executed (60_exceptions.md R242). -/
theorem boundary_of_noInterrupt {s : State} (h : NoInterrupt s) : boundary s = executeInstruction s := by
  have hirq : (s.irqLine && !flag .i s.p) = false := by
    rcases h.irq with h | h <;> simp [h]
  simp [boundary, h.nmi, hirq]

/-- Settles O50: a step at the boundary executes what is fetched, and as many bytes are fetched as the opcode's
entry has, the operand bytes each in the state the read before it leaves. -/
theorem stepRunsTheDecodedInstruction : Obligations.StepRunsTheDecodedInstruction := by
  intro s hs hno clocked op s0 b1 s1 b2 s2
  have h0 : fetchOpcode s = s0 := fetchOpcode_eq s
  have h1 : fetchByte s0 = (b1.1, s1) := fetchByte_at rfl (BitVec.add_assoc ..)
  have h2 : fetchByte s1 = (b2.1, s2) := fetchByte_at rfl (BitVec.add_assoc ..)
  have hstep : step s = clocked (exec (fetchInstr s).1 (fetchInstr s).2) := by
    rw [step_of_nil hs.schedule, pulse_boundary hs.wasReset hs.clocks hs.cycles, boundary_of_noInterrupt hno]
    rfl
  refine ⟨hstep, fun i h => ?one, fun i h => ?two, fun i h => ?three, fun i rest h hplain => ?plain⟩
  case one =>
    obtain ⟨hlen, rfl⟩ := decode_whole h
    exact fetchInstr_of_operands_zero h0 hlen
  case two =>
    obtain ⟨hlen, rfl⟩ := decode_whole h
    exact fetchInstr_of_operands_one h0 h1 hlen
  case three =>
    obtain ⟨hlen, rfl⟩ := decode_whole h
    exact fetchInstr_of_operands_two h0 h1 h2 hlen
  case plain =>
    obtain ⟨rfl, hlen⟩ := decode_three_eq_ok h
    rw [hlen] at hplain ⊢
    rw [hstep, fetchInstr_plain fun k hk => hplain k (by omega)]
    rfl

/-! ## The engine never halts -/

/-- Under the nop policy every instruction answers a next state (45_flags_system.md R231). -/
theorem exec_eq_next {s : State} (h : s.params.illegalPolicy = .nop) (i : Instr) : ∃ t, exec i s = .next t := by
  cases i
  case unofficial op =>
    simp only [exec, execUnofficial, h]
    exact ⟨_, rfl⟩
  all_goals exact ⟨_, rfl⟩

@[simp] theorem fetchByte_params (s : State) : (fetchByte s).2.params = s.params := by
  rw [fetchByte_eq]
  exact busRead_params s _

@[simp] theorem fetchOpcode_params (s : State) : (fetchOpcode s).params = s.params := by
  rw [fetchOpcode_eq]
  exact busRead_params s _

@[simp] theorem fetchInstr_params (s : State) : (fetchInstr s).2.params = s.params := by
  unfold fetchInstr
  dsimp only
  split <;> simp

theorem boundary_eq_next {s : State} (h : s.params.illegalPolicy = .nop) : ∃ t, boundary s = .next t := by
  unfold boundary
  split
  · exact ⟨_, rfl⟩
  split
  · exact ⟨_, rfl⟩
  · exact exec_eq_next (by rw [fetchInstr_params, h]) _

theorem pulse_eq_next {s : State} (hr : s.wasReset = true) (h : s.params.illegalPolicy = .nop) :
    ∃ t, pulse s = .next t := by
  by_cases hn : s.pulseCount % 3 = 0
  · by_cases hc : s.cycles = 0
    · obtain ⟨t, ht⟩ := boundary_eq_next h
      rw [pulse_boundary hr hn hc, ht]
      exact ⟨_, rfl⟩
    · exact ⟨_, pulse_busy hr hn hc⟩
  · exact ⟨_, pulse_off hr hn⟩

/-- Settles O56: a step is a pulse or a scheduled action, and of these only an insertion can stop. -/
theorem theEngineNeverHalts : Obligations.TheEngineNeverHalts := by
  intro s hr hpolicy hinsert
  cases hs : s.schedule with
  | nil =>
    rw [step_of_nil hs]
    exact pulse_eq_next hr hpolicy
  | cons act rest =>
    rw [step_of_cons hs]
    cases act with
    | pulse => exact pulse_eq_next hr hpolicy
    | insert image => exact absurd hs (hinsert image rest)
    | reset => exact ⟨_, rfl⟩
    | debugRead a => exact ⟨_, rfl⟩
    | nmiRequest => exact ⟨_, rfl⟩
    | irqLine level => exact ⟨_, rfl⟩
    | statusEvent bits => exact ⟨_, rfl⟩

end Sys2Proof.Machine
end

section
/-! The disassembler (30_encoding.md R121 to R123). -/

namespace Sys2Proof.Machine

/-! ## The walk -/

/-- The walk does not depend on its fuel, as long as there is a unit for every address up to the stop. -/
theorem disassembleFrom_fuel (s : State) (stop : Nat) {fuel fuel' cursor : Nat} (h : stop + 1 - cursor ≤ fuel)
    (h' : stop + 1 - cursor ≤ fuel') : disassembleFrom s stop fuel cursor = disassembleFrom s stop fuel' cursor := by
  induction fuel generalizing fuel' cursor with
  | zero =>
    have hstop : ¬ cursor ≤ stop := by omega
    cases fuel' with
    | zero => rfl
    | succ n => rw [disassembleFrom, disassembleFrom, if_neg hstop]
  | succ n ih =>
    cases fuel' with
    | zero =>
      have hstop : ¬ cursor ≤ stop := by omega
      rw [disassembleFrom, disassembleFrom, if_neg hstop]
    | succ n' =>
      simp only [disassembleFrom]
      split
      · exact congrArg _ (ih (by omega) (by omega))
      · rfl

/-- The first line, and the walk from the byte after its instruction (30_encoding.md R123). -/
theorem disassemble_eq (s : State) (start stop : Nat) : disassemble s start stop =
    if stop < start then [] else
      (BitVec.ofNat 16 start, lineAt s (BitVec.ofNat 16 start)) ::
        disassemble s (start + 1 + (rowOf (memPeek s (BitVec.ofNat 16 start))).tag.operands) stop := by
  by_cases h : stop < start
  · rw [if_pos h, disassemble, show stop + 1 - start = 0 by omega]
    rfl
  · rw [if_neg h, disassemble, show stop + 1 - start = (stop - start) + 1 by omega, disassembleFrom,
      if_pos (by omega)]
    exact congrArg _ (disassembleFrom_fuel s stop (by omega) le_rfl)

/-! ## One line -/

theorem operandField_imp (a : Word) : operandField a .imp = [] := rfl

/-- In IMP nothing stands between mnemonic and tag (30_encoding.md R121). -/
theorem lineText_imp (a : Word) (n : Mnem) : lineText a n .imp =
    '$' :: hex4 a ++ ": ".toList ++ Mnem.text n ++ [' ', Char.ofNat 0x7B] ++ "IMP".toList ++
      [Char.ofNat 0x7D] := by
  unfold lineText
  rw [operandField_imp, List.append_nil, List.append_assoc _ " ".toList]
  rfl

theorem operandField_of_ne_imp (a : Word) {m : Mode} (h : m ≠ .imp) :
    operandField a m = operandText a m ++ [' '] := by
  cases m
  case imp => exact absurd rfl h
  all_goals rfl

/-- Outside IMP the operand text stands between mnemonic and tag (30_encoding.md R121). -/
theorem lineText_of_ne_imp (a : Word) (n : Mnem) {m : Mode} (h : m ≠ .imp) : lineText a n m =
    '$' :: hex4 a ++ ": ".toList ++ Mnem.text n ++ " ".toList ++ operandText a m ++
      [' ', Char.ofNat 0x7B] ++ ModeTag.text m.tag ++ [Char.ofNat 0x7D] := by
  unfold lineText
  simp only [operandField_of_ne_imp a h, List.append_assoc]
  rfl

/-- A branch's target, as a signed sum modulo 65536 (30_encoding.md R122). -/
theorem branchTarget_eq (a : Word) (b : Byte) :
    a + 2 + b.signExtend 16 = BitVec.ofInt 16 (a.toNat + 2 + b.toInt) := by
  rw [BitVec.ofInt_add, BitVec.ofInt_add, BitVec.ofInt_natCast, BitVec.ofNat_toNat, BitVec.setWidth_eq]
  rfl

/-! ## Hexadecimal digits (30_encoding.md R121) -/

/-- The digit characters in order. -/
def hexChar (k : Nat) : Char := "0123456789ABCDEF".toList.getD k ' '

theorem hexDigit_eq (d : BitVec 4) : hexDigit d = hexChar d.toNat := by
  revert d
  decide +kernel

theorem hex2_eq (b : Byte) : hex2 b = [hexChar (b.toNat / 16), hexChar (b.toNat % 16)] := by
  have hhi : (b.extractLsb' 4 4).toNat = b.toNat / 16 := by
    have := b.isLt
    rw [BitVec.extractLsb'_toNat, Nat.shiftRight_eq_div_pow]
    omega
  have hlo : (b.extractLsb' 0 4).toNat = b.toNat % 16 := BitVec.extractLsb'_toNat 0 4 b
  rw [hex2, hexDigit_eq, hexDigit_eq, hhi, hlo]

theorem hex4_eq (w : Word) : hex4 w = [hexChar (w.toNat / 4096), hexChar (w.toNat / 256 % 16),
    hexChar (w.toNat / 16 % 16), hexChar (w.toNat % 16)] := by
  have h1 : w.toNat / 256 / 16 = w.toNat / 4096 := by omega
  have h2 : w.toNat % 256 / 16 = w.toNat / 16 % 16 := by omega
  have h3 : w.toNat % 256 % 16 = w.toNat % 16 := by omega
  rw [hex4, hex2_eq, hex2_eq, hiByte_toNat, loByte_toNat, h1, h2, h3]
  rfl

/-- Settles O60: the walk, one line by whether its mode is IMP, the operand texts, and the digits as characters. -/
theorem disassemblyWalksTheRange : Obligations.DisassemblyWalksTheRange := by
  refine ⟨disassemble_eq, fun _ _ => rfl, lineText_imp, fun a n _ => lineText_of_ne_imp a n, fun a b w => ?operand,
    ?digits, ?mnemonics, ?tags⟩
  case operand =>
    refine ⟨rfl, rfl, rfl, rfl, rfl, rfl, rfl, rfl, rfl, rfl, ?_⟩
    rw [← branchTarget_eq]
    rfl
  case digits =>
    rintro _ rfl
    exact ⟨hex2_eq, hex4_eq⟩
  case mnemonics => decide
  case tags => decide

end Sys2Proof.Machine
end

section
/-! Arithmetic and logical instructions (40_arith_logic.md R140 to R145): what each answers, and the two overflow
rules in signs. -/

namespace Sys2Proof.Machine

/-! ## Completing -/

/-- An instruction that combines `A` with its operand completes, with the result in `A`. -/
theorem completesReading_accumulate {i : Instr} {m : Mode} {result flags : Byte → Byte → Byte → Byte} {s : State}
    {l : List (Flag × Bool)} (hi : exec i s = .next (accumulate m result flags s))
    (hf : FlagsAfter s.p (flags s.a (operandOf m s).1 s.p) l) :
    CompletesReading i m true s (fun u => u.setA (result s.a (operandOf m s).1 s.p)) l :=
  ⟨_, by rw [hi, accumulate_eq]; rfl, hf⟩

/-! ## Sums and differences -/

theorem addOverflow_eq (a m r : Byte) : addOverflow a m r = (a.msb == m.msb && r.msb != a.msb) := by
  simp only [addOverflow, BitVec.msb_eq_getLsbD_last, BitVec.getLsbD_and, BitVec.getLsbD_not, BitVec.getLsbD_xor]
  cases a.getLsbD 7 <;> cases m.getLsbD 7 <;> cases r.getLsbD 7 <;> rfl

theorem subOverflow_eq (a m r : Byte) : subOverflow a m r = (a.msb != m.msb && r.msb != a.msb) := by
  simp only [subOverflow, BitVec.msb_eq_getLsbD_last, BitVec.getLsbD_and, BitVec.getLsbD_xor]
  cases a.getLsbD 7 <;> cases m.getLsbD 7 <;> cases r.getLsbD 7 <;> rfl

/-- The complement SBC adds (R141). -/
theorem toNat_complement (m : Byte) : (m ^^^ 0xFF).toNat = 255 - m.toNat := by
  rw [show (0xFF : Byte) = BitVec.allOnes 8 from rfl, BitVec.xor_allOnes, BitVec.toNat_not]

/-- The borrow is the complement of the carry (R141). -/
theorem toNat_borrow (c : Bool) : (!c).toNat = 1 - c.toNat := by cases c <;> rfl

/-- The sum with the complement is the difference with the borrow, modulo 256 (R141). -/
theorem sbcResult_toNat (a m p : Byte) :
    (sbcResult a m p).toNat = (a.toNat + 256 - (m.toNat + (!flag .c p).toNat)) % 256 := by
  have hm := m.isLt
  have hc := Bool.toNat_le (flag .c p)
  rw [sbcResult, sumResult_toNat, toNat_complement, toNat_borrow]
  omega

/-- The sum with the complement carries exactly when no borrow is needed (R141). -/
theorem sumCarry_complement (a m : Byte) (c : Bool) :
    sumCarry a (m ^^^ 0xFF) c = decide (m.toNat + (!c).toNat ≤ a.toNat) := by
  have hm := m.isLt
  have hc := Bool.toNat_le c
  rw [sumCarry_eq, toNat_complement, toNat_borrow, decide_eq_decide]
  omega

/-! ## Flags -/

/-- The four flags of an arithmetic instruction (R140, R141). -/
theorem flagsAfter_setZN_setFlag_v_c (p r : Byte) (v c : Bool) :
    FlagsAfter p (setZN r (setFlag .v v (setFlag .c c p)))
      [(.c, c), (.z, decide (r = 0)), (.n, r.msb), (.v, v)] := by
  intro f
  cases f <;> simp [BitVec.msb_eq_getLsbD_last, Bool.beq_eq_decide_eq]

theorem flagsAfter_adcFlags (a m p : Byte) : FlagsAfter p (adcFlags a m p)
    [(.c, decide (255 < a.toNat + m.toNat + (flag .c p).toNat)), (.z, decide (adcResult a m p = 0)),
      (.n, (adcResult a m p).msb), (.v, a.msb == m.msb && (adcResult a m p).msb != a.msb)] := by
  rw [← sumCarry_eq, ← addOverflow_eq]
  exact flagsAfter_setZN_setFlag_v_c p _ _ _

theorem flagsAfter_sbcFlags (a m p : Byte) : FlagsAfter p (sbcFlags a m p)
    [(.c, decide (m.toNat + (!flag .c p).toNat ≤ a.toNat)), (.z, decide (sbcResult a m p = 0)),
      (.n, (sbcResult a m p).msb), (.v, a.msb != m.msb && (sbcResult a m p).msb != a.msb)] := by
  rw [← sumCarry_complement, ← subOverflow_eq]
  exact flagsAfter_setZN_setFlag_v_c p _ _ _

/-- A conjunction of bytes is 0 when no bit is set in both. -/
theorem and_beq_zero (a m : Byte) :
    ((a &&& m) == 0x00) = (List.range 8).all fun k => !(a.getLsbD k && m.getLsbD k) := by
  rw [Bool.eq_iff_iff, beq_iff_eq, List.all_eq_true, BitVec.eq_of_getLsbD_eq_iff]
  simp [imp_iff_not_or]

theorem flagsAfter_bitFlags (a m p : Byte) : FlagsAfter p (bitFlags a m p)
    [(.z, (List.range 8).all fun k => !(a.getLsbD k && m.getLsbD k)), (.n, m.getLsbD 7), (.v, m.getLsbD 6)] := by
  rw [← and_beq_zero]
  intro f
  cases f <;> simp

/-! ## The instructions -/

/-- A bitwise instruction completes, with Z and N of its result (R142 to R144). -/
theorem completesReading_logical {i : Instr} {m : Mode} {f : Byte → Byte → Byte} {s : State}
    (hi : exec i s = .next (logical m f s)) :
    CompletesReading i m true s (fun u => u.setA (f s.a (operandOf m s).1))
      [(.z, decide (f s.a (operandOf m s).1 = 0)), (.n, (f s.a (operandOf m s).1).msb)] :=
  completesReading_accumulate hi (flagsAfter_setZN _ _)

/-- Settles O1: the nine-bit sum as a number, its carry, and the overflow rule in signs. -/
theorem adcAddsWithCarry : Obligations.AdcAddsWithCarry :=
  ⟨hasRows_of_filter (by decide) (by decide +kernel) (by decide +kernel), fun m s =>
    ⟨adcResult s.a (operandOf m s).1 s.p, sumResult_toNat _ _ _,
      completesReading_accumulate rfl (flagsAfter_adcFlags _ _ _)⟩⟩

/-- Settles O2: the sum with the complement is the difference, and carries when there is no borrow. -/
theorem sbcSubtractsWithBorrow : Obligations.SbcSubtractsWithBorrow :=
  ⟨hasRows_of_filter (by decide) (by decide +kernel) (by decide +kernel), fun m s =>
    ⟨sbcResult s.a (operandOf m s).1 s.p, sbcResult_toNat _ _ _,
      completesReading_accumulate rfl (flagsAfter_sbcFlags _ _ _)⟩⟩

/-- Settles O3: each instruction is `logical`, and a bit of its result is a lemma of the bit vectors. -/
theorem logicalInstructionsCombineBits : Obligations.LogicalInstructionsCombineBits :=
  ⟨hasRows_of_filter (by decide) (by decide +kernel) (by decide +kernel),
    hasRows_of_filter (by decide) (by decide +kernel) (by decide +kernel),
    hasRows_of_filter (by decide) (by decide +kernel) (by decide +kernel), fun m s =>
    ⟨⟨s.a &&& (operandOf m s).1, fun _ => BitVec.getLsbD_and, completesReading_logical rfl⟩,
      ⟨s.a ||| (operandOf m s).1, fun _ => BitVec.getLsbD_or, completesReading_logical rfl⟩,
      ⟨s.a ^^^ (operandOf m s).1, fun _ => BitVec.getLsbD_xor, completesReading_logical rfl⟩⟩⟩

/-- BIT writes flags only, and never costs a page-cross cycle (R145). -/
theorem exec_bit (m : Mode) (s : State) : exec (.bit m) s =
    .next { (operandOf m s).2 with p := bitFlags s.a (operandOf m s).1 s.p, cycles := s.cycles } := by
  rw [← operandOf_a m s, ← operandOf_p m s, ← operandOf_cycles m s]
  exact congrArg Host.Outcome.next (withMode_false m _ s)

/-- Settles O4: BIT's flags, Z by the bits of the conjunction. -/
theorem bitTestsTheOperand : Obligations.BitTestsTheOperand :=
  ⟨hasRows_of_filter (by decide) (by decide +kernel) (by decide +kernel), fun m s =>
    ⟨_, by rw [exec_bit, Bool.and_false]; rfl, flagsAfter_bitFlags _ _ _⟩⟩

end Sys2Proof.Machine
end

section
/-! Shifts, rotates, compares, increments and decrements (41_shift_compare_incdec.md R150 to R165): their results
as numbers, the flags they leave, and what each instruction answers. -/

namespace Sys2Proof.Machine

/-! ## Results as numbers -/

theorem aslResult_toNat (v : Byte) : (aslResult v).toNat = 2 * v.toNat % 256 := by
  rw [aslResult, BitVec.toNat_shiftLeft, Nat.shiftLeft_eq, Nat.mul_comm]

theorem lsrResult_toNat (v : Byte) : (lsrResult v).toNat = v.toNat / 2 := by
  rw [lsrResult, BitVec.toNat_ushiftRight, Nat.shiftRight_eq_div_pow]

/-- The old carry of ROL stands below the seven bits that stay (R152). -/
theorem rolResult_toNat (v p : Byte) : (rolResult v p).toNat = (2 * v.toNat + (flag .c p).toNat) % 256 := by
  have hcarry : ((BitVec.ofBool (flag .c p)).setWidth 8).toNat = (flag .c p).toNat := by
    cases flag .c p <;> rfl
  have hhigh : (v <<< 1).toNat = 2 ^ 1 * (v.toNat % 128) := by
    rw [BitVec.toNat_shiftLeft, Nat.shiftLeft_eq]
    omega
  have hlow : (flag .c p).toNat < 2 ^ 1 := Bool.toNat_lt _
  rw [rolResult, BitVec.toNat_or, hcarry, hhigh, ← Nat.two_pow_add_eq_or_of_lt hlow]
  omega

/-- The old carry of ROR stands above the seven bits that stay (R153). -/
theorem rorResult_toNat (v p : Byte) : (rorResult v p).toNat = v.toNat / 2 + 128 * (flag .c p).toNat := by
  have hcarry : ((BitVec.ofBool (flag .c p)).setWidth 8 <<< 7).toNat = 2 ^ 7 * (flag .c p).toNat := by
    cases flag .c p <;> rfl
  have hlow : v.toNat / 2 < 2 ^ 7 := by have := v.isLt; omega
  rw [rorResult, BitVec.toNat_or, hcarry, BitVec.toNat_ushiftRight, Nat.shiftRight_eq_div_pow, Nat.or_comm,
    ← Nat.two_pow_add_eq_or_of_lt hlow, Nat.add_comm]

theorem byte_add_one_toNat (v : Byte) : (v + 1).toNat = (v.toNat + 1) % 256 := BitVec.toNat_add v 1

theorem byte_sub_one_toNat (v : Byte) : (v - 1).toNat = (v.toNat + 255) % 256 := BitVec.toNat_sub' v 1

/-! ## Bits as numbers -/

theorem getLsbD_zero_eq_decide (v : Byte) : v.getLsbD 0 = decide (v.toNat % 2 = 1) := Nat.testBit_zero v.toNat

theorem getLsbD_seven_eq_decide (v : Byte) : v.getLsbD 7 = decide (128 ≤ v.toNat) := BitVec.msb_eq_decide v

theorem lsrResult_msb (v : Byte) : (lsrResult v).msb = false := by
  have := v.isLt
  rw [BitVec.msb_eq_decide, lsrResult_toNat, decide_eq_false_iff_not]
  omega

theorem rorResult_msb (v p : Byte) : (rorResult v p).msb = flag .c p := by
  have := v.isLt
  rw [BitVec.msb_eq_decide, rorResult_toNat]
  cases flag .c p
  · exact decide_eq_false (by rw [Bool.toNat_false]; omega)
  · exact decide_eq_true (by rw [Bool.toNat_true]; omega)

/-- Bit 7 of a difference modulo 256 (R155 to R157). -/
theorem sub_getLsbD_seven (r v : Byte) :
    (r - v).getLsbD 7 = decide (128 ≤ (r.toNat + 256 - v.toNat) % 256) := by
  rw [getLsbD_seven_eq_decide, BitVec.toNat_sub', Nat.add_sub_assoc v.isLt.le r.toNat]

/-! ## Flags -/

/-- The flags of a shift or rotate, in the form the statements use. -/
theorem flagsAfter_shiftFlags (out : Bool) (r p : Byte) :
    FlagsAfter p (shiftFlags out r p) [(.c, out), (.z, decide (r = 0)), (.n, r.msb)] := by
  intro f
  cases f <;> simp [BitVec.msb_eq_getLsbD_last, Bool.beq_eq_decide_eq]

/-- The flags of a shift or rotate to the left: bit 7 moves into C (R150, R152). -/
theorem flagsAfter_shiftLeft (v r p : Byte) : FlagsAfter p (shiftFlags (v.getLsbD 7) r p)
    [(.c, decide (128 ≤ v.toNat)), (.z, decide (r = 0)), (.n, r.msb)] := by
  rw [← getLsbD_seven_eq_decide]
  exact flagsAfter_shiftFlags _ _ _

/-- The flags of a shift or rotate to the right: bit 0 moves into C, and `n` into bit 7 (R151, R153). -/
theorem flagsAfter_shiftRight (v p : Byte) {r : Byte} {n : Bool} (hn : r.msb = n) :
    FlagsAfter p (shiftFlags (v.getLsbD 0) r p)
      [(.c, decide (v.toNat % 2 = 1)), (.z, decide (r = 0)), (.n, n)] := by
  rw [← getLsbD_zero_eq_decide, ← hn]
  exact flagsAfter_shiftFlags _ _ _

/-- The flags of a compare as unsigned numbers (R155 to R157). -/
theorem flagsAfter_compareFlags (r v p : Byte) : FlagsAfter p (compareFlags r v p)
    [(.c, decide (v.toNat ≤ r.toNat)), (.z, decide (r = v)),
      (.n, decide (128 ≤ (r.toNat + 256 - v.toNat) % 256))] := by
  rw [← sub_getLsbD_seven]
  intro f
  cases f <;> simp [BitVec.le_def, Bool.beq_eq_decide_eq]

/-! ## Completing -/

/-- A read-modify-write instruction completes, with its result `r` written back. -/
theorem completesModifying_modify {i : Instr} {m : Mode} {result flags : Byte → Byte → Byte} {s : State} {r : Byte}
    {l : List (Flag × Bool)} (hi : exec i s = .next (Machine.modify m result flags s))
    (hr : result (operandOf m s).1 s.p = r) (hf : FlagsAfter s.p (flags (operandOf m s).1 s.p) l) :
    CompletesModifying i m s r l :=
  ⟨_, by rw [hi, modify_eq, hr], hf⟩

/-- A compare completes, with no register changed; `reg` is one that reading an operand leaves alone. -/
theorem completesReading_compareReg {i : Instr} {m : Mode} {extra : Bool} {reg : State → Byte} {s : State}
    (hi : exec i s = .next (compareReg m extra reg s)) (hr : reg (operandOf m s).2 = reg s) :
    CompletesReading i m extra s id
      [(.c, decide ((operandOf m s).1.toNat ≤ (reg s).toNat)), (.z, decide (reg s = (operandOf m s).1)),
        (.n, decide (128 ≤ ((reg s).toNat + 256 - (operandOf m s).1.toNat) % 256))] :=
  ⟨_, by rw [hi, compareReg_eq m extra reg s hr]; rfl, flagsAfter_compareFlags _ _ _⟩

/-- An IMP instruction that changes registers and sets Z and N from `r` completes. -/
theorem completesImplied_setZN {i : Instr} {s : State} {upd : State → State} {r : Byte}
    (hi : exec i s = .next ((upd (s.setFetched s.a)).setP (setZN r s.p))) :
    CompletesImplied i s upd [(.z, decide (r = 0)), (.n, r.msb)] :=
  ⟨_, hi, flagsAfter_setZN _ _⟩

/-! ## The instructions -/

/-- Settles O5: each is `modify`, and its result is a number; the bit shifted out is the operand's bit 7 or 0. -/
theorem shiftsAndRotatesMoveOneBit : Obligations.ShiftsAndRotatesMoveOneBit :=
  ⟨hasRows_of_filter (by decide) (by decide +kernel) (by decide +kernel),
    hasRows_of_filter (by decide) (by decide +kernel) (by decide +kernel),
    hasRows_of_filter (by decide) (by decide +kernel) (by decide +kernel),
    hasRows_of_filter (by decide) (by decide +kernel) (by decide +kernel), fun m s =>
    ⟨⟨aslResult (operandOf m s).1, aslResult_toNat _,
        completesModifying_modify rfl rfl (flagsAfter_shiftLeft _ _ _)⟩,
      ⟨lsrResult (operandOf m s).1, lsrResult_toNat _,
        completesModifying_modify rfl rfl (flagsAfter_shiftRight _ _ (lsrResult_msb _))⟩,
      ⟨rolResult (operandOf m s).1 s.p, rolResult_toNat _ _,
        completesModifying_modify rfl rfl (flagsAfter_shiftLeft _ _ _)⟩,
      ⟨rorResult (operandOf m s).1 s.p, rorResult_toNat _ _,
        completesModifying_modify rfl rfl (flagsAfter_shiftRight _ _ (rorResult_msb _ _))⟩⟩⟩

/-- Settles O6: each is `compareReg` on a register that reading the operand leaves alone. -/
theorem comparesSetCarryZeroNegative : Obligations.ComparesSetCarryZeroNegative :=
  ⟨hasRows_of_filter (by decide) (by decide +kernel) (by decide +kernel),
    hasRows_of_filter (by decide) (by decide +kernel) (by decide +kernel),
    hasRows_of_filter (by decide) (by decide +kernel) (by decide +kernel), fun m s =>
    ⟨completesReading_compareReg rfl (operandOf_a m s), completesReading_compareReg rfl (operandOf_x m s),
      completesReading_compareReg rfl (operandOf_y m s)⟩⟩

/-- Settles O7: each is `modify` with `SetZN`, and subtracting 1 is adding 255 modulo 256. -/
theorem incAndDecStepAMemoryByte : Obligations.IncAndDecStepAMemoryByte :=
  ⟨hasRows_of_filter (by decide) (by decide +kernel) (by decide +kernel),
    hasRows_of_filter (by decide) (by decide +kernel) (by decide +kernel), fun m s =>
    ⟨⟨(operandOf m s).1 + 1, byte_add_one_toNat _, completesModifying_modify rfl rfl (flagsAfter_setZN _ _)⟩,
      ⟨(operandOf m s).1 - 1, byte_sub_one_toNat _, completesModifying_modify rfl rfl (flagsAfter_setZN _ _)⟩⟩⟩

/-- Settles O8: one register set, and `SetZN` of it. -/
theorem indexRegistersStepModulo256 : Obligations.IndexRegistersStepModulo256 :=
  ⟨hasRows_of_filter (by decide) (by decide +kernel) (by decide +kernel),
    hasRows_of_filter (by decide) (by decide +kernel) (by decide +kernel),
    hasRows_of_filter (by decide) (by decide +kernel) (by decide +kernel),
    hasRows_of_filter (by decide) (by decide +kernel) (by decide +kernel), fun s =>
    ⟨⟨s.x + 1, byte_add_one_toNat _, completesImplied_setZN rfl⟩,
      ⟨s.y + 1, byte_add_one_toNat _, completesImplied_setZN rfl⟩,
      ⟨s.x - 1, byte_sub_one_toNat _, completesImplied_setZN rfl⟩,
      ⟨s.y - 1, byte_sub_one_toNat _, completesImplied_setZN rfl⟩⟩⟩

end Sys2Proof.Machine
end

section
/-! Loads, stores and transfers (42_load_store_transfer.md R170 to R185): what each shared meaning completes with,
and the instructions that are instances of it. -/

namespace Sys2Proof.Machine

/-! ## Completing -/

/-- A load, with its flags and its cost, for a register whose writing charges no cycle (R170 to R172). -/
theorem load_eq_of_cycles {setReg : State → Byte → State} (hc : ∀ u v, (setReg u v).cycles = u.cycles) (m : Mode)
    (s : State) : load m setReg s =
      { setReg (operandOf m s).2 (operandOf m s).1 with
        p := setZN (operandOf m s).1 s.p
        cycles := s.cycles + ((resolve m s).1 && true).toNat } := by
  rw [← operandOf_p m s, ← operandOf_cycles m s, ← hc (operandOf m s).2 (operandOf m s).1]
  rfl

/-- A load completes, with the operand in its register and Z and N from it. -/
theorem completesReading_load {i : Instr} {m : Mode} {setReg : State → Byte → State} {s : State}
    (hi : exec i s = .next (load m setReg s)) (hc : ∀ u v, (setReg u v).cycles = u.cycles) :
    CompletesReading i m true s (fun u => setReg u (operandOf m s).1)
      [(.z, decide ((operandOf m s).1 = 0)), (.n, (operandOf m s).1.msb)] :=
  ⟨_, by rw [hi, load_eq_of_cycles hc], flagsAfter_setZN _ _⟩

/-- A store completes with one bus write at `ea`; `reg` is a register that resolving a mode leaves alone
(R173 to R175). -/
theorem exec_of_store {i : Instr} {m : Mode} {reg : State → Byte} {s : State}
    (hi : exec i s = .next (store m reg s)) (hr : reg (resolve m s).2 = reg s) :
    ∃ t, exec i s = .next t ∧ t = busWrite (resolve m s).2 (resolve m s).2.ea (reg s) ∧ t.p = s.p ∧
      t.cycles = s.cycles := by
  rw [store_eq, hr] at hi
  exact ⟨_, hi, rfl, by rw [busWrite_p, resolve_p], by rw [busWrite_cycles, resolve_cycles]⟩

/-- TXS moves `X` into `SP`, and writes no flag (R185). -/
theorem exec_txs (s : State) : exec .txs s = .next { s with sp := s.x, fetched := s.a } :=
  congrArg Host.Outcome.next (withMode_false .imp (fun u => u.setSp u.x) s)

/-! ## The instructions -/

/-- Settles O9: each is `load`, with the operand's Z and N. -/
theorem loadsCopyTheOperand : Obligations.LoadsCopyTheOperand :=
  ⟨hasRows_of_filter (by decide) (by decide +kernel) (by decide +kernel),
    hasRows_of_filter (by decide) (by decide +kernel) (by decide +kernel),
    hasRows_of_filter (by decide) (by decide +kernel) (by decide +kernel), fun _ _ =>
    ⟨completesReading_load rfl State.setA_cycles, completesReading_load rfl State.setX_cycles,
      completesReading_load rfl State.setY_cycles⟩⟩

/-- Settles O10: each is `store` of a register that resolving the mode leaves alone. -/
theorem storesWriteOneByteAndNoFlag : Obligations.StoresWriteOneByteAndNoFlag :=
  ⟨hasRows_of_filter (by decide) (by decide +kernel) (by decide +kernel),
    hasRows_of_filter (by decide) (by decide +kernel) (by decide +kernel),
    hasRows_of_filter (by decide) (by decide +kernel) (by decide +kernel), fun m s =>
    ⟨exec_of_store rfl (resolve_a m s), exec_of_store rfl (resolve_x m s), exec_of_store rfl (resolve_y m s)⟩⟩

/-- Settles O11: each but TXS sets one register and `SetZN` of the byte moved; TXS sets `SP` alone. -/
theorem transfersCopyOneRegister : Obligations.TransfersCopyOneRegister :=
  ⟨hasRows_of_filter (by decide) (by decide +kernel) (by decide +kernel),
    hasRows_of_filter (by decide) (by decide +kernel) (by decide +kernel),
    hasRows_of_filter (by decide) (by decide +kernel) (by decide +kernel),
    hasRows_of_filter (by decide) (by decide +kernel) (by decide +kernel),
    hasRows_of_filter (by decide) (by decide +kernel) (by decide +kernel),
    hasRows_of_filter (by decide) (by decide +kernel) (by decide +kernel), fun s =>
    ⟨completesImplied_setZN rfl, completesImplied_setZN rfl, completesImplied_setZN rfl, completesImplied_setZN rfl,
      completesImplied_setZN rfl, exec_txs s⟩⟩

end Sys2Proof.Machine
end

section
/-! The stack (43_stack.md R190 to R195): each push, pull, call and return as one next state, what a pushing
instruction leaves alone, and pulls undoing pushes. -/

namespace Sys2Proof.Machine

/-! ## What each instruction answers -/

/-- PHA: `A` goes to the slot at the stack pointer (43_stack.md R194). -/
theorem exec_pha (s : State) : exec .pha s = .next { s with
    fetched := s.a, wram := s.wram.write (stackCell s.sp) s.a, sp := s.sp - 1 } := by
  simp only [exec, execPha, withMode_false, push_eq]
  rfl

/-- PLA: the byte of the slot above, with its Z and N (43_stack.md R195). -/
theorem exec_pla (s : State) : exec .pla s = .next { s with
    fetched := s.a, sp := s.sp + 1, a := s.wram.read (stackCell (s.sp + 1))
    p := setZN (s.wram.read (stackCell (s.sp + 1))) s.p } := by
  simp only [exec, execPla, withMode_false, pull_eq]
  rfl

/-- PLP: the flags from the byte of the slot above (43_stack.md R193). -/
theorem exec_plp (s : State) : exec .plp s = .next { s with
    fetched := s.a, sp := s.sp + 1, p := pulledFlags (s.wram.read (stackCell (s.sp + 1))) } := by
  simp only [exec, execPlp, withMode_false, pull_eq]
  rfl

/-- JSR: the address of its last byte goes to two slots, high byte first (44_control_flow.md R210). -/
theorem exec_jsr (w : Word) (s : State) : exec (.jsr w) s = .next { s with
    ea := w, pc := w, sp := s.sp - 2
    wram := (s.wram.write (stackCell s.sp) (hiByte (s.pc - 1))).write (stackCell (s.sp - 1))
      (loByte (s.pc - 1)) } := by
  simp only [exec, execJsr, withMode_false, pushWord_eq]
  rfl

/-- RTS: one past the address in the two slots above (44_control_flow.md R211). -/
theorem exec_rts (s : State) : exec .rts s = .next { s with
    fetched := s.a, sp := s.sp + 2
    pc := word (s.wram.read (stackCell (s.sp + 2))) (s.wram.read (stackCell (s.sp + 1))) + 1 } := by
  simp only [exec, execRts, withMode_false, pullWord_eq]
  rfl

/-! ## The flags through the stack -/

/-- The byte PHP pushes has B and U set (43_stack.md R192). -/
theorem flagsAfter_pushedFlags (p : Byte) : FlagsAfter p (pushedFlags p) [(.b, true), (.u, true)] := by
  intro f
  cases f <;> simp

/-- What is pulled from a byte has B clear and U set (43_stack.md R193). -/
theorem flagsAfter_pulledFlags (v : Byte) : FlagsAfter v (pulledFlags v) [(.b, false), (.u, true)] := by
  intro f
  cases f <;> simp

/-- PLP of PHP's byte: every flag but B and U is back. -/
theorem flagsAfter_pulledFlags_pushedFlags (p : Byte) :
    FlagsAfter p (pulledFlags (pushedFlags p)) [(.b, false), (.u, true)] := by
  intro f
  cases f <;> simp

/-! ## Pushes and pulls -/

/-- Settles O12: a push stores into the slot's work-RAM cell; PHP's byte is P with B and U set. -/
theorem pushesStoreBelowTheStackPointer : Obligations.PushesStoreBelowTheStackPointer :=
  ⟨hasRows_of_filter (by decide) (by decide +kernel) (by decide +kernel),
    hasRows_of_filter (by decide) (by decide +kernel) (by decide +kernel), fun s =>
    ⟨exec_pha s, pushedFlags s.p, flagsAfter_pushedFlags s.p, exec_php s⟩⟩

/-- Settles O13: a pull reads the work-RAM cell of the slot above. -/
theorem pullsLoadFromAboveTheStackPointer : Obligations.PullsLoadFromAboveTheStackPointer :=
  ⟨hasRows_of_filter (by decide) (by decide +kernel) (by decide +kernel),
    hasRows_of_filter (by decide) (by decide +kernel) (by decide +kernel), fun s =>
    ⟨⟨_, flagsAfter_setZN s.p _, exec_pla s⟩, _, flagsAfter_pulledFlags _, exec_plp s⟩⟩

/-! ## What pushing leaves alone -/

/-- The work RAM after a list of bytes is pushed, the first into the slot of `sp`. -/
def pushedBytes (sp : Byte) : List Byte → Memory → Memory
  | [], m => m
  | v :: vs, m => pushedBytes (sp - 1) vs (m.write (stackCell sp) v)

/-- A cell that is none of the slots pushed into keeps its byte. -/
theorem read_pushedBytes {m : Memory} (hw : m.wf = true) {sp : Byte} {vs : List Byte} {i : Nat}
    (h : ∀ k < vs.length, stackCell (sp - BitVec.ofNat 8 k) ≠ i) : (pushedBytes sp vs m).read i = m.read i := by
  induction vs generalizing sp m with
  | nil => rfl
  | cons v vs ih =>
    have hfirst : stackCell sp ≠ i := by simpa using h 0 (by simp)
    have hrest : ∀ k < vs.length, stackCell (sp - 1 - BitVec.ofNat 8 k) ≠ i := fun k hk => by
      have hslot : sp - 1 - BitVec.ofNat 8 k = sp - BitVec.ofNat 8 (k + 1) := by
        rw [BitVec.sub_sub, BitVec.ofNat_add, BitVec.add_comm]
        rfl
      exact hslot ▸ h (k + 1) (by simpa using hk)
    rw [pushedBytes, ih (Memory.wf_write hw _ _) hrest, Memory.read_write hw, if_neg hfirst]

/-- `t` is `s` after `n` bytes are pushed, with `SP`, `PC`, `P` and internal registers changed at most. -/
def PushesBytes (n : Nat) (s t : State) : Prop :=
  ∃ vs : List Byte, vs.length = n ∧ t = { s with
    sp := t.sp, pc := t.pc, p := t.p, fetched := t.fetched, ea := t.ea, wram := pushedBytes s.sp vs s.wram }

/-- PHA, PHP, JSR and BRK push 1, 1, 2 and 3 bytes. -/
theorem exec_pushesBytes {b : Mnem × Nat} (hb : b ∈ [(Mnem.pha, 1), (.php, 1), (.jsr, 2), (.brk, 3)])
    {i : Instr} (hi : i.mnem = b.1) {s t : State} (h : exec i s = .next t) : PushesBytes b.2 s t := by
  have hofficial : b.1 ≠ .unofficial := fun e => by simp [Prod.ext_iff, e] at hb
  have hrow : Instr.ofRow ⟨0x00, b.1, .imp, 0⟩ i.mode = i :=
    Instr.ofRow_mode_self hi.symm fun op hop => absurd (hi.symm.trans (congrArg Instr.mnem hop)) hofficial
  rw [← hrow] at h
  simp only [List.mem_cons, List.not_mem_nil, or_false] at hb
  rcases hb with rfl | rfl | rfl | rfl
  · cases (exec_pha s).symm.trans h
    exact ⟨[s.a], rfl, rfl⟩
  · cases (exec_php s).symm.trans h
    exact ⟨[pushedFlags s.p], rfl, rfl⟩
  · cases (exec_jsr _ s).symm.trans h
    exact ⟨[hiByte (s.pc - 1), loByte (s.pc - 1)], rfl, rfl⟩
  · cases (exec_brk s).symm.trans h
    rw [takeInterrupt_irqVector]
    exact ⟨[hiByte (s.pc + 1), loByte (s.pc + 1), setFlag .b true s.p], rfl,
      by simp only [pushedBytes, BitVec.sub_sub]; rfl⟩

/-- Settles O28: no slot pushed into is the storage behind the address. -/
theorem pushingInstructionsChangeOnlyTheirStackSlots :
    Obligations.PushingInstructionsChangeOnlyTheirStackSlots := by
  intro b hb i s t hi hs h
  obtain ⟨vs, hn, ht⟩ := exec_pushesBytes hb hi h
  rw [ht]
  refine ⟨fun a ha hslots => memPeek_of_read rfl (fun j hj => ?_) (fun _ _ => rfl) ha, rfl, rfl, rfl, rfl, rfl⟩
  have hne : ∀ k < vs.length, stackCell (s.sp - BitVec.ofNat 8 k) ≠ j := fun k hk e =>
    hslots k (hn ▸ hk) (hj.trans (congrArg CpuTarget.wram e.symm))
  exact read_pushedBytes hs.wram.1 hne

/-! ## Pulls undo pushes -/

/-- Two slots share no cell. -/
theorem stackCell_inj {a b : Byte} : stackCell a = stackCell b ↔ a = b := by
  simp [stackCell, BitVec.toNat_inj]

/-- The slot above the stack pointer holds the byte pushed last. -/
theorem read_pushed {m n : Memory} (hm : m.wf = true) {sp sp' v : Byte} (hn : n = m.write (stackCell sp) v)
    (hsp : sp' = sp - 1) : n.read (stackCell (sp' + 1)) = v := by
  rw [hn, hsp, BitVec.sub_add_cancel, Memory.read_write hm, if_pos rfl]

/-- The two slots above the stack pointer hold the word pushed last: its low byte does not overwrite its
high byte. -/
theorem read_pushed_word {m n : Memory} (hm : m.wf = true) {sp sp' : Byte} {w : Word}
    (hn : n = (m.write (stackCell sp) (hiByte w)).write (stackCell (sp - 1)) (loByte w)) (hsp : sp' = sp - 2) :
    word (n.read (stackCell (sp' + 2))) (n.read (stackCell (sp' + 1))) = w := by
  have hlo : n.read (stackCell (sp' + 1)) = loByte w :=
    read_pushed (Memory.wf_write hm _ _) hn (by rw [hsp, BitVec.sub_sub]; rfl)
  have hne : stackCell (sp - 1) ≠ stackCell sp := fun e => by simpa using stackCell_inj.1 e
  have hhi : n.read (stackCell (sp' + 2)) = hiByte w := by
    rw [hn, hsp, BitVec.sub_add_cancel, Memory.read_write (Memory.wf_write hm _ _), if_neg hne,
      Memory.read_write hm, if_pos rfl]
  rw [hlo, hhi, word_hiByte_loByte]

/-- Settles O44: the slots pulled are the slots pushed. -/
theorem pullsUndoPushes : Obligations.PullsUndoPushes := by
  refine fun s hw => ⟨fun w t u ht hwram hsp => ⟨_, exec_rts u, ?_⟩, fun t u ht hwram hsp => ⟨_, exec_pla u, ?_⟩,
    fun t u ht hwram hsp => ⟨_, exec_plp u, ?_⟩⟩
  · cases (exec_jsr w s).symm.trans ht
    refine ⟨?_, hsp ▸ BitVec.sub_add_cancel _ _⟩
    simp only [read_pushed_word hw hwram hsp, BitVec.sub_add_cancel]
  · cases (exec_pha s).symm.trans ht
    exact ⟨read_pushed hw hwram hsp, hsp ▸ BitVec.sub_add_cancel _ _⟩
  · cases (exec_php s).symm.trans ht
    simp only [read_pushed hw hwram hsp]
    exact ⟨flagsAfter_pulledFlags_pushedFlags s.p, hsp ▸ BitVec.sub_add_cancel _ _⟩

end Sys2Proof.Machine
end

section
/-! Jumps, branches, subroutine call and return (44_control_flow.md R200 to R211): what each answers. -/

namespace Sys2Proof.Machine

/-! ## Jumps -/

/-- JMP: the effective address goes to `PC` (R200). -/
theorem exec_jmp (m : Mode) (s : State) :
    exec (.jmp m) s = .next { (resolve m s).2 with pc := (resolve m s).2.ea } :=
  congrArg Host.Outcome.next (withMode_false m (fun u => u.setPc u.ea) s)

/-- A pointer in the last byte of a page has its high byte in the first of the same page
(30_encoding.md R109). -/
theorem pointerHighAddr_page_end (hi : Byte) : pointerHighAddr (word hi 0xFF) = word hi 0x00 := by
  rw [pointerHighAddr, loByte_word, if_pos rfl, hiByte_word]

/-- Settles O14: PC is the mode's address; for the pointer at a page's end, the second read is at its start. -/
theorem jumpSetsThePc : Obligations.JumpSetsThePc := by
  refine ⟨hasRows_of_filter (by decide) (by decide +kernel) (by decide +kernel), exec_jmp,
    fun w s => exec_jmp (.abs w) s, fun hi s hlow hhigh => ?pageEnd⟩
  case pageEnd =>
    rw [exec_jmp, resolve_ind, pointerHighAddr_page_end, busRead_plain hlow, busRead_plain hhigh]

/-! ## Branches -/

/-- What a page cross costs, by the pages (R201). -/
theorem toNat_crosses (ea base : Word) :
    (crosses ea base).toNat = if hiByte ea = hiByte base then 0 else 1 := by
  by_cases h : hiByte ea = hiByte base <;> simp [crosses, h]

/-- Settles O15: each is `branchOn` its flag, with the displacement and the cost of the page written out. -/
theorem branchesTestOneFlag : Obligations.BranchesTestOneFlag := by
  refine ⟨hasRows_of_filter (by decide) (by decide +kernel) (by decide +kernel),
    hasRows_of_filter (by decide) (by decide +kernel) (by decide +kernel),
    hasRows_of_filter (by decide) (by decide +kernel) (by decide +kernel),
    hasRows_of_filter (by decide) (by decide +kernel) (by decide +kernel),
    hasRows_of_filter (by decide) (by decide +kernel) (by decide +kernel),
    hasRows_of_filter (by decide) (by decide +kernel) (by decide +kernel),
    hasRows_of_filter (by decide) (by decide +kernel) (by decide +kernel),
    hasRows_of_filter (by decide) (by decide +kernel) (by decide +kernel), fun b hb d s => ?_⟩
  have hexec : exec (b.1 d) s = .next (branchOn b.2.1 b.2.2 d s) := by
    simp only [List.mem_cons, List.not_mem_nil, or_false] at hb
    rcases hb with rfl | rfl | rfl | rfl | rfl | rfl | rfl | rfl <;> rfl
  rw [hexec, branchOn_eq, toNat_crosses, signExtend_eq_word]

/-! ## Call and return -/

/-- Settles O16: what JSR and RTS answer. -/
theorem callAndReturnUseTheStack : Obligations.CallAndReturnUseTheStack :=
  ⟨hasRows_of_filter (by decide) (by decide +kernel) (by decide +kernel),
    hasRows_of_filter (by decide) (by decide +kernel) (by decide +kernel),
    fun s => ⟨fun w => exec_jsr w s, exec_rts s⟩⟩

end Sys2Proof.Machine
end

section
/-! Flag instructions, BRK, RTI, NOP and the placeholder (45_flags_system.md R220 to R232): what each answers,
and when executing an instruction stops. -/

namespace Sys2Proof.Machine

/-! ## BRK and RTI -/

/-- BRK: the slots, the live flags and the vector, written out (45_flags_system.md R227). -/
theorem exec_brk_eq (s : State) : exec .brk s = .next { s with
    fetched := s.a, sp := s.sp - 3, p := setFlag .i true (setFlag .b false s.p)
    pc := word (memPeek s 0xFFFF) (memPeek s 0xFFFE)
    wram := ((s.wram.write (stackCell s.sp) (hiByte (s.pc + 1))).write (stackCell (s.sp - 1))
      (loByte (s.pc + 1))).write (stackCell (s.sp - 2)) (setFlag .b true s.p) } := by
  rw [exec_brk, takeInterrupt_irqVector]
  rfl

/-- BRK's live flags (45_flags_system.md R227). -/
theorem flagsAfter_brk (p : Byte) :
    FlagsAfter p (setFlag .i true (setFlag .b false p)) [(.b, false), (.i, true)] := by
  intro f
  cases f <;> simp

/-- Settles O18: the entry sequence through the IRQ/BRK vector, with what it stacks and what it leaves live. -/
theorem brkEntersTheHandler : Obligations.BrkEntersTheHandler :=
  ⟨hasRows_of_filter (by decide) (by decide +kernel) (by decide +kernel), fun s =>
    ⟨_, _, flagsAfter_setFlag s.p .b true, flagsAfter_brk s.p, exec_brk_eq s⟩⟩

/-- RTI: the flags and the address from the three slots above (45_flags_system.md R229). -/
theorem exec_rti (s : State) : exec .rti s = .next { s with
    fetched := s.a, sp := s.sp + 3, p := pulledFlags (s.wram.read (stackCell (s.sp + 1)))
    pc := word (s.wram.read (stackCell (s.sp + 3))) (s.wram.read (stackCell (s.sp + 2))) } := by
  simp only [exec, execRti, withMode_false, returnFromInterrupt_eq]
  rfl

/-- Settles O19: the flags are those pulled from the slot above, and `PC` is the word above it. -/
theorem rtiRestoresFlagsAndPc : Obligations.RtiRestoresFlagsAndPc :=
  ⟨hasRows_of_filter (by decide) (by decide +kernel) (by decide +kernel), fun s =>
    ⟨_, flagsAfter_pulledFlags _, exec_rti s⟩⟩

/-! ## NOP and the placeholder -/

/-- NOP: nothing beyond what IMP does (45_flags_system.md R228). -/
theorem exec_nop (s : State) : exec .nop s = .next { s with fetched := s.a } :=
  congrArg Host.Outcome.next (withMode_false .imp id s)

/-- The placeholder under the nop policy is NOP (45_flags_system.md R231). -/
theorem exec_unofficial_of_nop {s : State} (h : s.params.illegalPolicy = .nop) (op : Byte) :
    exec (.unofficial op) s = exec .nop s := by
  simp only [exec, execUnofficial, h, execNop]

/-- The placeholder under the fault policy stops (45_flags_system.md R232). -/
theorem exec_unofficial_of_fault {s : State} (h : s.params.illegalPolicy = .fault) (op : Byte) :
    exec (.unofficial op) s = .fault (.illegalOpcode op (s.pc - 1)) := by
  simp only [exec, execUnofficial, h]

/-- Every official instruction answers a next state, under either policy. -/
theorem exec_eq_next_of_official {i : Instr} (h : ∀ op, i ≠ .unofficial op) (s : State) :
    ∃ t, exec i s = .next t := by
  cases i
  case unofficial op => exact absurd rfl (h op)
  all_goals exact ⟨_, rfl⟩

/-- Settles O21: the placeholder under the fault policy stops as R232 says; whatever else is executed answers a next
state. -/
theorem onlyAnIllegalOpcodeUnderTheFaultPolicyFaults :
    Obligations.OnlyAnIllegalOpcodeUnderTheFaultPolicyFaults := by
  intro i s
  by_cases h : ∃ op, i = .unofficial op ∧ s.params.illegalPolicy = .fault
  · obtain ⟨op, rfl, hpolicy⟩ := h
    simp [exec_unofficial_of_fault hpolicy, hpolicy, eq_comm]
  · have hnext : ∃ t, exec i s = .next t := by
      cases hpolicy : s.params.illegalPolicy with
      | nop => exact exec_eq_next hpolicy i
      | fault => exact exec_eq_next_of_official (fun op hi => h ⟨op, hi, hpolicy⟩) s
    obtain ⟨t, ht⟩ := hnext
    rw [ht]
    exact ⟨fun e => ⟨nofun, fun ⟨op, hi, hpolicy, _⟩ => absurd ⟨op, hi, hpolicy⟩ h⟩, nofun⟩

/-- No official entry is at a byte R119 lists. -/
theorem officialRows_op_not_unofficial : ∀ r ∈ officialRows, unofficialOpcodes.contains r.op = false := by
  decide +kernel

/-- A byte R119 lists has the placeholder's entry (45_flags_system.md R230). -/
theorem rowOf_of_mem_unofficialOpcodes {op : Byte} (h : op ∈ unofficialOpcodes) :
    rowOf op = ⟨op, .unofficial, .imp, 2⟩ := by
  rcases rowOf_mem_or op with ⟨hmem, hop⟩ | hrow
  · have hnot := officialRows_op_not_unofficial _ hmem
    rw [hop, List.contains_iff_mem.2 h] at hnot
    cases hnot
  · exact hrow

/-- The placeholder has an entry at each byte R119 lists, and at no other. -/
theorem hasRows_unofficial : HasRows .unofficial (unofficialOpcodes.map fun op => (op, .imp, 2)) := by
  refine ⟨fun r hr => ?listed, fun op h => ?only⟩
  case listed =>
    obtain ⟨op, hop, rfl⟩ := List.mem_map.1 hr
    exact rowOf_of_mem_unofficialOpcodes hop
  case only => simpa using unofficialOpcodes_contains op h

/-- Settles O20: NOP's effect is IMP's alone, and under the nop policy the placeholder is NOP. -/
theorem nopAndPlaceholderDoNothingMore : Obligations.NopAndPlaceholderDoNothingMore :=
  ⟨hasRows_of_filter (by decide) (by decide +kernel) (by decide +kernel), hasRows_unofficial, rfl, fun s =>
    ⟨exec_nop s, fun hpolicy op => (exec_unofficial_of_nop hpolicy op).trans (exec_nop s)⟩⟩

/-! ## Flag instructions -/

/-- An instruction that is `writeFlag` completes and writes that flag alone. -/
theorem completesImplied_writeFlag {i : Instr} {f : Flag} {v : Bool} {s : State}
    (hi : exec i s = .next (writeFlag f v s)) : CompletesImplied i s id [(f, v)] :=
  ⟨_, by rw [hi, writeFlag, withMode_false]; rfl, flagsAfter_setFlag s.p f v⟩

/-- Settles O17: each is `writeFlag` of its flag and value. -/
theorem flagInstructionsWriteOneFlag : Obligations.FlagInstructionsWriteOneFlag := by
  refine ⟨hasRows_of_filter (by decide) (by decide +kernel) (by decide +kernel),
    hasRows_of_filter (by decide) (by decide +kernel) (by decide +kernel),
    hasRows_of_filter (by decide) (by decide +kernel) (by decide +kernel),
    hasRows_of_filter (by decide) (by decide +kernel) (by decide +kernel),
    hasRows_of_filter (by decide) (by decide +kernel) (by decide +kernel),
    hasRows_of_filter (by decide) (by decide +kernel) (by decide +kernel),
    hasRows_of_filter (by decide) (by decide +kernel) (by decide +kernel),
    fun b hb s => completesImplied_writeFlag ?_⟩
  simp only [List.mem_cons, List.not_mem_nil, or_false] at hb
  rcases hb with rfl | rfl | rfl | rfl | rfl | rfl | rfl <;> rfl

end Sys2Proof.Machine
end

section
/-! The video registers (60_exceptions.md R252 to R266): what a bus access of each does, and the mirrors of the
nametables and the palette. -/

namespace Sys2Proof.Machine

/-! ## Accesses of the register window -/

theorem busRead_window (s : State) {a : Word} (h1 : 0x2000 ≤ a.toNat) (h2 : a.toNat ≤ 0x3FFF) :
    busRead s a = vregRead s (.ofAddr a) := by
  simp only [busRead, cpuReadTarget_window s a h1 h2]

theorem busWrite_window (s : State) {a : Word} (h1 : 0x2000 ≤ a.toNat) (h2 : a.toNat ≤ 0x3FFF) (v : Byte) :
    busWrite s a v = vregWrite s (.ofAddr a) v := by
  simp only [busWrite, cpuWriteTarget_window s a h1 h2]

/-! ## Status -/

/-- The bits of the byte a Status read returns (60_exceptions.md R257). -/
theorem getLsbD_statusByte (vr : VideoRegs) (k : Nat) : (statusByte vr).getLsbD k =
    if k < 5 then vr.buffer.getLsbD k else vr.status.getLsbD k := by
  by_cases hk : k < 8
  · interval_cases k <;> simp [statusByte]
  · rw [if_neg (by omega), BitVec.getLsbD_of_ge _ _ (by omega), BitVec.getLsbD_of_ge _ _ (by omega)]

/-- Clearing the vertical-blank bit keeps the others (60_exceptions.md R257). -/
theorem getLsbD_clearBlank (st : Byte) (k : Nat) : (st &&& 0x7F).getLsbD k =
    if k = 7 then false else st.getLsbD k := by
  by_cases hk : k < 8
  · interval_cases k <;> simp
  · rw [if_neg (by omega), BitVec.getLsbD_of_ge _ _ (by omega), BitVec.getLsbD_of_ge _ _ (by omega)]

theorem busRead_status (s : State) {a : Word} (h1 : 0x2000 ≤ a.toNat) (h2 : a.toNat ≤ 0x3FFF)
    (h : a.toNat % 8 = 2) : busRead s a =
      (statusByte s.vr, { s with vr := { s.vr with status := s.vr.status &&& 0x7F, latch := false } }) := by
  rw [busRead_window s h1 h2, (ofAddr_eq_status a).2 h]
  rfl

/-- Settles O35: the two masks, bit by bit. -/
theorem statusReadClearsBlankAndLatch : Obligations.StatusReadClearsBlankAndLatch := fun s _ h1 h2 h =>
  ⟨_, _, busRead_status s h1 h2 h, getLsbD_statusByte s.vr, getLsbD_clearBlank s.vr.status⟩

/-! ## Address -/

/-- Both values of the latch at once (60_exceptions.md R258). -/
theorem addressWrite_eq (vr : VideoRegs) (v : Byte) : addressWrite vr v = { vr with
    vramAddr := if vr.latch then word (hiByte vr.vramAddr) v else word v (loByte vr.vramAddr)
    latch := !vr.latch } := by
  cases h : vr.latch <;> simp [addressWrite, h]

theorem busWrite_address (s : State) {a : Word} (h1 : 0x2000 ≤ a.toNat) (h2 : a.toNat ≤ 0x3FFF)
    (h : a.toNat % 8 = 6) (v : Byte) : busWrite s a v = { s with vr := { s.vr with
      vramAddr := if s.vr.latch then word (hiByte s.vr.vramAddr) v else word v (loByte s.vr.vramAddr)
      latch := !s.vr.latch } } := by
  rw [busWrite_window s h1 h2, VReg.ofAddr_eq, h, ← addressWrite_eq]
  rfl

/-- Settles O36: each write does its half and flips the latch, which a Status read between them clears. -/
theorem twoAddressWritesComposeTheVramAddress : Obligations.TwoAddressWritesComposeTheVramAddress := by
  intro s a b c v w ha1 ha2 ha hb1 hb2 hb hc1 hc2 hc
  refine ⟨busWrite_address s ha1 ha2 ha v, fun hl => ?_⟩
  simp [busWrite_address _ ha1 ha2 ha, busWrite_address _ hb1 hb2 hb, busRead_status _ hc1 hc2 hc, hl]

/-! ## Data -/

theorem dataAddr_eq (vr : VideoRegs) : dataAddr vr = BitVec.ofNat 14 (vr.vramAddr.toNat % 16384) := by
  apply BitVec.eq_of_toNat_eq
  simp [dataAddr]

theorem dataStep_toNat (vr : VideoRegs) : (dataStep vr).toNat = if vr.control.getLsbD 2 then 32 else 1 := by
  unfold dataStep
  split <;> rfl

/-- A Data read of the palette returns its entry at once (60_exceptions.md R263). -/
theorem vregRead_data_palette (s : State) (h : 0x3F00 ≤ (dataAddr s.vr).toNat) : ∃ d, vregRead s .data =
    (paletteEntry s.vr (paletteIndex (dataAddr s.vr)), { s with vr := { s.vr with
      buffer := paletteEntry s.vr (paletteIndex (dataAddr s.vr)), vramAddr := s.vr.vramAddr + dataStep s.vr
      drawn := d } }) := by
  have hp : 0x3F00 ≤ dataAddr s.vr := BitVec.le_def.2 h
  refine ⟨s.vr.drawn + videoDraws s (dataAddr s.vr), ?_⟩
  simp only [vregRead, dataRefill, dataByte, if_pos hp]
  rfl

/-- A Data read below the palette returns the buffer and refills it (60_exceptions.md R263). -/
theorem vregRead_data_buffered (s : State) (h : (dataAddr s.vr).toNat < 0x3F00) : ∃ d, vregRead s .data =
    (s.vr.buffer, { s with vr := { s.vr with
      buffer := videoRead s (dataAddr s.vr), vramAddr := s.vr.vramAddr + dataStep s.vr, drawn := d } }) := by
  have hp : ¬ 0x3F00 ≤ dataAddr s.vr := fun hle => Nat.not_le.2 h (BitVec.le_def.1 hle)
  refine ⟨s.vr.drawn + videoDraws s (dataAddr s.vr), ?_⟩
  simp only [vregRead, dataRefill, dataByte, if_neg hp]
  rfl

theorem videoWrite_vramAddr (s : State) (a : BitVec 14) (v : Byte) :
    (videoWrite s a v).vr.vramAddr = s.vr.vramAddr := by
  unfold videoWrite
  cases videoWriteTarget s a <;> rfl

theorem videoWrite_control (s : State) (a : BitVec 14) (v : Byte) :
    (videoWrite s a v).vr.control = s.vr.control := by
  unfold videoWrite
  cases videoWriteTarget s a <;> rfl

/-- A Data write stores, and advances the address as it stood before (60_exceptions.md R259, R261). -/
theorem vregWrite_data (s : State) (v : Byte) : vregWrite s .data v =
    { videoWrite s (dataAddr s.vr) v with
      vr := { (videoWrite s (dataAddr s.vr) v).vr with vramAddr := s.vr.vramAddr + dataStep s.vr } } := by
  simp only [vregWrite, advanceData, dataStep, videoWrite_vramAddr, videoWrite_control]
  rfl

/-- Settles O37: a read of either side of 0x3F00, and the write, each with the one advanced address. -/
theorem dataAccessesAreBufferedAndAdvance : Obligations.DataAccessesAreBufferedAndAdvance := by
  intro s a v h1 h2 h
  rw [← dataAddr_eq, busRead_window s h1 h2, busWrite_window s h1 h2, (ofAddr_eq_data a).2 h]
  have hnext : (s.vr.vramAddr + dataStep s.vr).toNat =
      (s.vr.vramAddr.toNat + if s.vr.control.getLsbD 2 then 32 else 1) % 65536 := by
    rw [BitVec.toNat_add, dataStep_toNat]
  by_cases hp : 0x3F00 ≤ (dataAddr s.vr).toNat
  · obtain ⟨d, hd⟩ := vregRead_data_palette s hp
    exact ⟨_, d, hnext, by rw [if_pos hp, hd], vregWrite_data s v⟩
  · obtain ⟨d, hd⟩ := vregRead_data_buffered s (Nat.lt_of_not_le hp)
    exact ⟨_, d, hnext, by rw [if_neg hp, hd], vregWrite_data s v⟩

/-! ## The other registers -/

/-- Grayscale is the only part of Mask a palette read looks at (60_exceptions.md R253, R264). -/
theorem paletteEntry_congr {v w : VideoRegs} (hp : w.palette = v.palette)
    (hm : w.mask.getLsbD 0 = v.mask.getLsbD 0) (i : Nat) : paletteEntry w i = paletteEntry v i := by
  simp only [paletteEntry, hp, hm]

/-- States that differ in Mask beyond grayscale, and in no storage, read every video address alike. -/
theorem videoRead_congr_of_grayscale {s t : State} (hc : t.cart = s.cart) (hs : t.params = s.params)
    (hm : t.vr.mask.getLsbD 0 = s.vr.mask.getLsbD 0) (hn : t.vr.nametable = s.vr.nametable)
    (hp : t.vr.palette = s.vr.palette) (hd : t.vr.drawn = s.vr.drawn) (a : BitVec 14) :
    videoRead t a = videoRead s a := by
  rw [videoRead_eq, videoRead_eq, videoReadTarget_congr hc hs]
  cases videoReadTarget s a with
  | palette i => exact paletteEntry_congr hp hm i
  | _ => simp only [videoByte, chrBytes, hc, hn, hd]

/-- Settles O38: each register's row, and the two bits of Control and Mask that anything reads. -/
theorem writeOnlyRegistersReadZeroAndOthersIgnoreWrites :
    Obligations.WriteOnlyRegistersReadZeroAndOthersIgnoreWrites := by
  refine ⟨fun s a v h1 h2 => ?registers, fun s ctl msk hc hm => ⟨?step, ?byte, ?video⟩⟩
  case registers =>
    rw [busWrite_window s h1 h2, busRead_window s h1 h2, VReg.ofAddr_eq]
    refine ⟨fun h => ?_, fun h => ?_, fun h => ?_, fun h => ?_⟩
    · rw [h]
      rfl
    · rw [h]
      rfl
    · simp only [List.mem_cons, List.not_mem_nil, or_false] at h
      rcases h with h | h | h | h <;> rw [h] <;> rfl
    · simp only [List.mem_cons, List.not_mem_nil, or_false] at h
      rcases h with h | h | h | h | h | h <;> rw [h] <;> rfl
  case step => simp only [dataStep, hc]
  case byte =>
    have hentry := paletteEntry_congr (v := s.vr) (w := { s.vr with control := ctl, mask := msk }) rfl hm
    simp only [dataByte, hentry]
    rfl
  case video => exact videoRead_congr_of_grayscale rfl rfl hm rfl rfl rfl

/-! ## Mirrors (60_exceptions.md R264 to R266) -/

/-- The low bits of a video address, as a remainder. -/
theorem and_twoPow_sub_one_toNat (a : BitVec 14) {n : Nat} {m : BitVec 14} (hm : m.toNat = 2 ^ n - 1) :
    (a &&& m).toNat = a.toNat % 2 ^ n := by
  rw [BitVec.toNat_and, hm, Nat.and_two_pow_sub_one_eq_mod]

theorem toNat_getLsbD (q : BitVec 14) (k : Nat) : (q.getLsbD k).toNat = q.toNat / 2 ^ k % 2 := by
  rw [BitVec.getLsbD, Nat.toNat_testBit]

/-- The palette entry of a video address (60_exceptions.md R266). -/
theorem paletteIndex_eq (a : BitVec 14) : paletteIndex a =
    if a.toNat % 32 ∈ [16, 20, 24, 28] then a.toNat % 32 - 16 else a.toNat % 32 := by
  have hlow : (a &&& 0x1F).toNat = a.toNat % 32 := and_twoPow_sub_one_toNat a (n := 5) rfl
  have halias (i : BitVec 14) : (i = 0x10 ∨ i = 0x14 ∨ i = 0x18 ∨ i = 0x1C) ↔ i.toNat ∈ [16, 20, 24, 28] := by
    simp [← BitVec.toNat_inj]
  rw [← hlow]
  simp only [paletteIndex, ← halias]
  split
  · rename_i h
    rcases h with h | h | h | h <;> rw [h] <;> rfl
  · rfl

/-- A palette byte in grayscale keeps its high four bits (60_exceptions.md R264). -/
theorem and_0xF0_toNat (b : Byte) : (b &&& 0xF0).toNat = b.toNat / 16 * 16 := by
  revert b
  decide +kernel

theorem paletteEntry_toNat (vr : VideoRegs) (i : Nat) : (paletteEntry vr i).toNat =
    if vr.mask.getLsbD 0 then (vr.palette.read i).toNat / 16 * 16 else (vr.palette.read i).toNat := by
  cases h : vr.mask.getLsbD 0
  · rw [paletteEntry_color h]
    rfl
  · simp only [paletteEntry, h, if_true, and_0xF0_toNat]

/-- Settles O39: the masks and shifts of the model, as remainders and quotients. -/
theorem nametablesAndPaletteAreMirroredAsStated : Obligations.NametablesAndPaletteAreMirroredAsStated := by
  refine ⟨fun a => ?tables, fun s => ?mode, paletteIndex_eq, paletteEntry_toNat⟩
  case mode => cases h : s.cart <;> simp [mirroring, h]
  case tables =>
    have ho : (a &&& 0x0FFF).toNat = a.toNat % 4096 := and_twoPow_sub_one_toNat a (n := 12) rfl
    have hi : (a &&& 0x0FFF &&& 0x03FF).toNat = a.toNat % 4096 % 1024 := by
      rw [and_twoPow_sub_one_toNat _ (n := 10) rfl, ho]
      rfl
    have hq : ((a &&& 0x0FFF) >>> 10).toNat = a.toNat % 4096 / 1024 := by
      rw [BitVec.toNat_ushiftRight, ho, Nat.shiftRight_eq_div_pow]
    have hhalf : a.toNat % 4096 / 1024 / 2 % 2 = a.toNat % 4096 / 1024 / 2 := by omega
    simp only [nametableIndex, toNat_getLsbD, hi, hq, hhalf, Config.nametableSize, Nat.pow_zero, Nat.pow_one,
      Nat.div_one, Nat.mul_zero, Nat.mul_one, Nat.zero_add, and_self]

end Sys2Proof.Machine
end

section
/-! Interrupt entry (60_exceptions.md R243 to R247): what an IRQ or NMI entry stacks and loads, and that RTI undoes
it. -/

namespace Sys2Proof.Machine

/-! ## Entering -/

/-- Work RAM after an entry has stacked `PC` and the byte `stacked` (60_exceptions.md R245). -/
def entryStack (s : State) (stacked : Byte) : Memory :=
  ((s.wram.write (stackCell s.sp) (hiByte s.pc)).write (stackCell (s.sp - 1)) (loByte s.pc)).write
    (stackCell (s.sp - 2)) stacked

/-- The entry sequence through any vector: the vector is read in the state the pushes leave. -/
theorem takeInterrupt_eq (s : State) (vector : Word) (stacked live : Byte) :
    takeInterrupt s vector stacked live =
      let v := read16 { s with wram := entryStack s stacked, sp := s.sp - 3, p := live } vector
      { v.2 with pc := v.1 } := by
  simp only [takeInterrupt, pushWord_eq, push_eq, BitVec.sub_sub]
  rfl

/-- Reading the vector can change nothing but video registers. -/
theorem takeInterrupt_state (s : State) (vector : Word) (stacked live : Byte) :
    ∃ vr pc, takeInterrupt s vector stacked live =
      { s with wram := entryStack s stacked, sp := s.sp - 3, p := live, vr := vr, pc := pc } := by
  rw [takeInterrupt_eq]
  exact ⟨_, _, congrArg (State.setPc · _) (read16_state _ vector).1⟩

/-- `P` as IRQ and NMI stack it (60_exceptions.md R245). -/
theorem flagsAfter_stacked (p : Byte) :
    FlagsAfter p (setFlag .u true (setFlag .b false p)) [(.b, false), (.u, true)] := by
  intro f
  cases f <;> simp

/-- The second byte of a vector lies at the next address modulo 65536 (20_memory.md R60). -/
theorem word_succ_eq (a : Word) : a + 1 = BitVec.ofNat 16 ((a.toNat + 1) % 65536) := by
  apply BitVec.eq_of_toNat_eq
  simp [BitVec.toNat_add]

/-- Settles O41: both entries are `takeInterrupt` with one stacked and one live `P`. -/
theorem interruptEntryStacksPcAndFlags : Obligations.InterruptEntryStacksPcAndFlags := by
  refine fun s => ⟨_, _, flagsAfter_stacked s.p, flagsAfter_setFlag _ .i true, ?irq, ?nmi⟩
  case irq =>
    rw [irqEntry, enter, takeInterrupt_irqVector]
    rfl
  case nmi =>
    rw [nmiEntry, enter, takeInterrupt_eq, ← word_succ_eq]
    rfl

/-! ## Returning -/

/-- The slots above the byte an entry stacked last hold `PC`. -/
theorem read_entryStack_pc {s : State} (hw : s.wram.wf = true) (stacked : Byte) :
    word ((entryStack s stacked).read (stackCell s.sp)) ((entryStack s stacked).read (stackCell (s.sp - 1))) =
      s.pc := by
  have hpc := read_pushed_word (w := s.pc) hw rfl (rfl : s.sp - 2 = s.sp - 2)
  have habove : ∀ k : Byte, k ≠ 0 → (entryStack s stacked).read (stackCell (s.sp - 2 + k)) =
      ((s.wram.write (stackCell s.sp) (hiByte s.pc)).write (stackCell (s.sp - 1)) (loByte s.pc)).read
        (stackCell (s.sp - 2 + k)) := by
    intro k hk
    rw [entryStack, Memory.read_write (Memory.wf_write (Memory.wf_write hw _ _) _ _), if_neg]
    exact fun e => hk (by simpa using stackCell_inj.1 e)
  rw [← habove 2 (by decide), ← habove 1 (by decide)] at hpc
  have h1 : s.sp - 2 + 1 = s.sp - 1 := by bv_omega
  rwa [BitVec.sub_add_cancel, h1] at hpc

theorem read_entryStack_flags {s : State} (hw : s.wram.wf = true) (stacked : Byte) :
    (entryStack s stacked).read (stackCell (s.sp - 2)) = stacked :=
  (Memory.read_write (Memory.wf_write (Memory.wf_write hw _ _) _ _) _ _ _).trans (if_pos rfl)

/-- RTI after an entry pulls what the entry stacked, whatever the vector and the cost of the entry. -/
theorem exec_rti_takeInterrupt {s : State} (hw : s.wram.wf = true) (vector : Word) (stacked live : Byte)
    (n : Nat) : ∃ t, exec .rti ((takeInterrupt s vector stacked live).setCycles n) = .next t ∧ t.pc = s.pc ∧
      t.p = pulledFlags stacked ∧ t.sp = s.sp ∧ t.a = s.a ∧ t.x = s.x ∧ t.y = s.y := by
  obtain ⟨vr, pc, he⟩ := takeInterrupt_state s vector stacked live
  have h1 : s.sp - 3 + 1 = s.sp - 2 := by bv_omega
  have h2 : s.sp - 3 + 2 = s.sp - 1 := by bv_omega
  have h3 : s.sp - 3 + 3 = s.sp := BitVec.sub_add_cancel _ _
  refine ⟨_, exec_rti _, ?_⟩
  simp only [he, State.setCycles, h1, h2, h3, read_entryStack_flags hw, read_entryStack_pc hw, and_self]

/-- Pulling the stacked flags gives the live ones, whose U is 1 and B is 0 (10_state.md R26, R27). -/
theorem pulledFlags_stacked {p : Byte} (hu : flag .u p = true) (hb : flag .b p = false) :
    pulledFlags (setFlag .u true (setFlag .b false p)) = p := by
  apply flags_ext
  intro f
  cases f <;> simp [hu, hb]

/-- Settles O43: either entry is `takeInterrupt`, and the invariant makes the flags RTI pulls the live ones. -/
theorem rtiUndoesAnInterruptEntry : Obligations.RtiUndoesAnInterruptEntry := by
  intro s hs hr e he
  obtain ⟨hu, hb⟩ := hs.flags hr
  rw [← pulledFlags_stacked hu hb]
  rcases he with rfl | rfl
  · exact exec_rti_takeInterrupt hs.wram.1 _ _ _ _
  · exact exec_rti_takeInterrupt (s := s.setNmiPending false) hs.wram.1 _ _ _ _

end Sys2Proof.Machine
end

section
/-! The instruction boundary and the clock (60_exceptions.md R242, R270; 70_reset_and_hazards.md R310). -/

namespace Sys2Proof.Machine

/-- Settles O47: with nothing scheduled a step is a pulse, of one of three kinds. -/
theorem cpuClocksOnEveryThirdPulseAndCountsDown : Obligations.CpuClocksOnEveryThirdPulseAndCountsDown := by
  intro s hr hs
  rw [step_of_nil hs]
  exact ⟨pulse_off hr, pulse_busy hr, pulse_boundary hr⟩

theorem boundary_of_nmi {s : State} (h : s.nmiPending = true) : boundary s = .next (nmiEntry s) := if_pos h

theorem boundary_of_irq {s : State} (hn : s.nmiPending = false) (hl : s.irqLine = true)
    (hi : flag .i s.p = false) : boundary s = .next (irqEntry s) := by
  simp [boundary, hn, hl, hi]

/-- Settles O42: the three branches of `boundary`, and a step at a boundary and off it. -/
theorem boundaryTakesNmiThenIrqThenTheInstruction : Obligations.BoundaryTakesNmiThenIrqThenTheInstruction := by
  refine ⟨fun s => ⟨boundary_of_nmi, boundary_of_irq, fun hn hi => boundary_of_noInterrupt ⟨hn, hi⟩⟩,
    fun s hb => ?at_boundary, fun s hr hs hb => ?off_boundary⟩
  case at_boundary =>
    rw [step_of_nil hb.schedule]
    exact pulse_boundary hb.wasReset hb.clocks hb.cycles
  case off_boundary =>
    rw [step_of_nil hs]
    by_cases hn : s.pulseCount % 3 = 0
    · have hc : s.cycles ≠ 0 := fun hc => hb ⟨hr, hs, hn, hc⟩
      exact ⟨_, pulse_busy hr hn hc⟩
    · exact ⟨_, pulse_off hr hn⟩

end Sys2Proof.Machine
end

section
/-! The cost of an instruction or entry in CPU clocks and pulses, and the idle clocks after a reset
(60_exceptions.md R270; 70_reset_and_hazards.md R304, R310, R313). -/

namespace Sys2Proof.Machine

/-! ## Counting down -/

/-- A run that has answered a next state goes on from it. -/
theorem runFor_succ_of_next {k : Nat} {s t : State} (h : runFor k s = .next t) : runFor (k + 1) s = step t := by
  rw [runFor_succ, h]

/-- `s` after `k` pulses that start nothing, where the first pulse clocks the CPU: each third one takes one cycle
off, beginning with the first. -/
def countedDown (s : State) (k : Nat) : State :=
  { s with cycles := s.cycles - (k + 2) / 3, pulseCount := s.pulseCount + k }

section Countdown

/-! A machine after a reset with nothing scheduled, at a pulse that clocks the CPU. -/

variable {s : State} (hr : s.wasReset = true) (hs : s.schedule = []) (hp : s.pulseCount % 3 = 0)
include hr hs hp

/-- While cycles remain the pulses only count down. -/
theorem runFor_countdown {k : Nat} (hk : k ≤ 3 * s.cycles) : runFor k s = .next (countedDown s k) := by
  induction k with
  | zero => rfl
  | succ k ih =>
    rw [runFor_succ_of_next (ih (by omega)), step_of_nil (s := countedDown s k) hs]
    by_cases hclock : k % 3 = 0
    · rw [pulse_busy (s := countedDown s k) hr (by dsimp only [countedDown]; omega)
        (by dsimp only [countedDown]; omega), countedDown, countedDown,
        show s.cycles - (k + 1 + 2) / 3 = s.cycles - (k + 2) / 3 - 1 by omega]
      rfl
    · rw [pulse_off (s := countedDown s k) hr (by dsimp only [countedDown]; omega), countedDown, countedDown,
        show (k + 1 + 2) / 3 = (k + 2) / 3 by omega]
      rfl

/-- When the cycles are used up the machine is at a boundary. -/
theorem atBoundary_countdown :
    AtBoundary { s with cycles := 0, pulseCount := s.pulseCount + 3 * s.cycles } where
  wasReset := hr
  schedule := hs
  clocks := by dsimp only [Config.clockRatio]; omega
  cycles := rfl

/-- The cycles are used up after three pulses each. -/
theorem runFor_countdown_all : runFor (3 * s.cycles) s =
    .next { s with cycles := 0, pulseCount := s.pulseCount + 3 * s.cycles } := by
  rw [runFor_countdown hr hs hp (Nat.le_refl _), countedDown, show s.cycles - (3 * s.cycles + 2) / 3 = 0 by omega]

/-- Before that the machine is at no boundary: the last cycle goes on a pulse that clocks the CPU, and the two
pulses after it do not. -/
theorem not_atBoundary_of_countdown {k : Nat} (hk : k < 3 * s.cycles) {t : State} (ht : runFor k s = .next t) :
    ¬ AtBoundary t := by
  rw [runFor_countdown hr hs hp (by omega)] at ht
  cases ht
  rintro ⟨-, -, hclock, hcycles⟩
  dsimp only [countedDown, Config.clockRatio] at hclock hcycles
  omega

end Countdown

/-- Settles O49: the reset leaves 8 cycles to count down, at pulse 0. -/
theorem resetIsFollowedByEightIdleClocks : Obligations.ResetIsFollowedByEightIdleClocks := by
  intro s hs r
  have hr : r = _ := busReset_eq s
  have hreset : r.wasReset = true := by rw [hr]
  have hschedule : r.schedule = [] := by rw [hr]; exact hs
  have hpulse : r.pulseCount = 0 := by rw [hr]
  have hcycles : r.cycles = 8 := by rw [hr]
  have hclock : r.pulseCount % 3 = 0 := by rw [hpulse]
  have hrun := runFor_countdown_all hreset hschedule hclock
  have hend := atBoundary_countdown hreset hschedule hclock
  rw [hcycles, hpulse] at hrun hend
  exact ⟨hrun, hend, fun k t hk => not_atBoundary_of_countdown hreset hschedule hclock (by omega)⟩

/-! ## What fetching leaves -/

theorem fetchByte_state (s : State) : ∃ v vr, fetchByte s = (v, { s with vr := vr, pc := s.pc + 1 }) := by
  rw [fetchByte_eq, (busRead_state s s.pc).1]
  exact ⟨_, _, rfl⟩

/-- Everything fetching answers and can change: the instruction is that of the opcode byte's entry, whose base
cost is charged (30_encoding.md R116). -/
theorem fetchInstr_state (s : State) : ∃ op b1 b2 vr pc, fetchInstr s = (.ofBytes op b1 b2,
    { s with vr := vr, pc := pc, opcode := op, p := setFlag .u true s.p, cycles := (rowOf op).base }) := by
  have h0 := fetchOpcode_eq s
  rw [(busRead_state s s.pc).1] at h0
  obtain ⟨b1, vr1, h1⟩ := fetchByte_state (fetchOpcode s)
  obtain ⟨b2, vr2, h2⟩ := fetchByte_state { fetchOpcode s with vr := vr1, pc := (fetchOpcode s).pc + 1 }
  have hle := (rowOf (fetchOpcode s).opcode).tag.operands_le
  rcases hn : (rowOf (fetchOpcode s).opcode).tag.operands with _ | _ | _ | n
  · rw [fetchInstr_of_operands_zero rfl hn, h0]
    exact ⟨_, _, _, _, _, rfl⟩
  · rw [fetchInstr_of_operands_one rfl h1 hn, h0]
    exact ⟨_, _, _, _, _, rfl⟩
  · rw [fetchInstr_of_operands_two rfl h1 h2 hn, h0]
    exact ⟨_, _, _, _, _, rfl⟩
  · omega

/-! ## The cost of an instruction -/

theorem branchOn_cycles (f : Flag) (want : Bool) (disp : Byte) (s : State) :
    s.cycles ≤ (branchOn f want disp s).cycles ∧ (branchOn f want disp s).cycles ≤ s.cycles + 2 := by
  have hcross := Bool.toNat_le (crosses (s.pc + disp.signExtend 16) s.pc)
  rw [branchOn_eq]
  split
  · dsimp only
    omega
  · exact ⟨Nat.le_refl _, Nat.le_add_right _ _⟩

/-- An instruction whose mnemonic admits mode REL is a branch on a flag (44_control_flow.md R201). -/
theorem exec_eq_branchOn {i : Instr} (h : (Laws.Encoding.modesOf i.mnem).contains .rel = true) (s : State) :
    ∃ f want disp, exec i s = .next (branchOn f want disp s) := by
  cases i
  case bpl | bmi | bvc | bvs | bcc | bcs | bne | beq => exact ⟨_, _, _, rfl⟩
  all_goals cases h

theorem ofBytes_mode_tag (op b1 b2 : Byte) : (Instr.ofBytes op b1 b2).mode.tag = (rowOf op).tag := by
  rcases rowOf_mem_or op with ⟨hmem, -⟩ | hrow
  · rw [Instr.ofBytes, Instr.ofRow_mode (by rw [Mode.ofBytes_tag]; exact tag_mem_modesOf _ hmem),
      Mode.ofBytes_tag]
  · rw [Instr.ofBytes, hrow]
    rfl

/-- Every entry of mode REL is a branch's, and costs 2 before the branch is taken. -/
theorem rowOf_of_tag_rel : ∀ op : Byte, (rowOf op).tag = .rel →
    (Laws.Encoding.modesOf (rowOf op).mnem).contains .rel = true ∧ (rowOf op).base = 2 := by
  decide +kernel

/-- With its base cost charged an instruction costs 2 to 8: a branch 2 to 4, any other its base cost of 2 to 7
and at most one cycle more (30_encoding.md R115). -/
theorem exec_cycles_of_base {op b1 b2 : Byte} {s t : State} (hbase : s.cycles = (rowOf op).base)
    (h : exec (.ofBytes op b1 b2) s = .next t) : 2 ≤ t.cycles ∧ t.cycles ≤ 8 := by
  by_cases htag : (rowOf op).tag = .rel
  · obtain ⟨hmnem, htwo⟩ := rowOf_of_tag_rel op htag
    rw [← Instr.ofRow_mnem (rowOf op) (.ofBytes (rowOf op).tag b1 b2)] at hmnem
    obtain ⟨f, want, disp, hexec⟩ := exec_eq_branchOn hmnem s
    cases hexec.symm.trans h
    have hcost := branchOn_cycles f want disp s
    omega
  · have hcost := pageCrossCyclesAreChargedToReadingInstructions _ s t (by rwa [ofBytes_mode_tag]) h
    have hrow := rowOf_base op
    have hextra := Bool.toNat_le ((resolve (Instr.ofBytes op b1 b2).mode s).1 &&
      [Mnem.adc, .and, .cmp, .eor, .lda, .ldx, .ldy, .ora, .sbc].contains (Instr.ofBytes op b1 b2).mnem)
    omega

/-! ## The cost of a boundary -/

/-- A next state of a boundary is the NMI entry's, the IRQ entry's or an instruction's (60_exceptions.md
R242). -/
theorem boundary_cases {s t : State} (h : boundary s = .next t) :
    t = nmiEntry s ∨ t = irqEntry s ∨ executeInstruction s = .next t := by
  unfold boundary at h
  split at h
  · exact .inl (by cases h; rfl)
  · split at h
    · exact .inr (.inl (by cases h; rfl))
    · exact .inr (.inr h)

/-- A boundary charges 8 cycles for an NMI, 7 for an IRQ, and 2 to 8 for an instruction. -/
theorem boundary_cycles {s t : State} (h : boundary s = .next t) : 2 ≤ t.cycles ∧ t.cycles ≤ 8 := by
  rcases boundary_cases h with rfl | rfl | h
  · exact ⟨Nat.le_of_ble_eq_true rfl, Nat.le_refl 8⟩
  · exact ⟨Nat.le_of_ble_eq_true rfl, Nat.le_succ 7⟩
  · obtain ⟨op, b1, b2, vr, pc, hfetch⟩ := fetchInstr_state s
    rw [executeInstruction, hfetch] at h
    exact exec_cycles_of_base rfl h

theorem takeInterrupt_hostMarks (s : State) (vector : Word) (stacked live : Byte) :
    (takeInterrupt s vector stacked live).pulseCount = s.pulseCount ∧
      (takeInterrupt s vector stacked live).wasReset = s.wasReset ∧
      (takeInterrupt s vector stacked live).schedule = s.schedule := by
  obtain ⟨vr, pc, h⟩ := takeInterrupt_state s vector stacked live
  rw [h]
  exact ⟨rfl, rfl, rfl⟩

/-- A boundary neither counts a pulse nor touches the host's marks. -/
theorem boundary_hostMarks {s t : State} (h : boundary s = .next t) :
    t.pulseCount = s.pulseCount ∧ t.wasReset = s.wasReset ∧ t.schedule = s.schedule := by
  rcases boundary_cases h with rfl | rfl | h
  · exact takeInterrupt_hostMarks (s.setNmiPending false) _ _ _
  · exact takeInterrupt_hostMarks s _ _ _
  · obtain ⟨op, b1, b2, vr, pc, hfetch⟩ := fetchInstr_state s
    rw [executeInstruction, hfetch] at h
    obtain ⟨-, -, hpulse, -, -, hreset, hschedule, -⟩ := executionNeverTouchesInputsOrTheClock _ _ _ h
    exact ⟨hpulse, hreset, hschedule⟩

/-! ## Running from a boundary -/

/-- A run of at least one step depends on what the first step answers. -/
theorem runFor_congr_of_step_eq {s t : State} (h : step s = step t) {k : Nat} (hk : 0 < k) :
    runFor k s = runFor k t := by
  cases k with
  | zero => cases hk
  | succ k => rw [runFor, runFor, h]

/-- The clock that does the boundary already takes one cycle off, so the step at a boundary is the step of the
state the boundary answers (70_reset_and_hazards.md R310). -/
theorem step_eq_of_boundary {s t : State} (hs : AtBoundary s) (h : boundary s = .next t) : step s = step t := by
  obtain ⟨hpulse, hreset, hschedule⟩ := boundary_hostMarks h
  have hclock : t.pulseCount % 3 = 0 := by rw [hpulse]; exact hs.clocks
  have hcycles : t.cycles ≠ 0 := by
    have := (boundary_cycles h).1
    omega
  rw [step_of_nil hs.schedule, pulse_boundary hs.wasReset hs.clocks hs.cycles, h,
    step_of_nil (hschedule.trans hs.schedule), pulse_busy (hreset.trans hs.wasReset) hclock hcycles]
  rfl

/-- Settles O48: from the first step on the run is the countdown of the cost the boundary charges. -/
theorem anInstructionOccupiesExactlyItsCost : Obligations.AnInstructionOccupiesExactlyItsCost := by
  intro s t hs h u
  obtain ⟨hpulse, hreset, hschedule⟩ := boundary_hostMarks h
  obtain ⟨hlow, hhigh⟩ := boundary_cycles h
  have hrun : ∀ {k}, 0 < k → runFor k s = runFor k t := runFor_congr_of_step_eq (step_eq_of_boundary hs h)
  have hr : t.wasReset = true := hreset.trans hs.wasReset
  have hq : t.schedule = [] := hschedule.trans hs.schedule
  have hclock : t.pulseCount % 3 = 0 := by rw [hpulse]; exact hs.clocks
  have hall := runFor_countdown_all hr hq hclock
  have hend := atBoundary_countdown hr hq hclock
  rw [hpulse] at hall hend
  refine ⟨hlow, hhigh, (hrun (by omega)).trans hall, hend, fun k r hpos hk hkr => ?_⟩
  exact not_atBoundary_of_countdown hr hq hclock hk ((hrun hpos).symm.trans hkr)

end Sys2Proof.Machine
end
